-- ==== Sys2Proof/Word.lean ====
section
/-! DEFINITION. The block's plain data widths (00_scope.md R8: every value is unsigned). -/

namespace Sys2Proof

/-- A command or response word, 32 bits (30_encoding.md R113). -/
abbrev Word := BitVec 32

/-- Every datum the block stores is one byte (20_memory.md R84). -/
abbrev Byte := BitVec 8

/-- A buffer handle, 8 bits (10_state.md R33, R36). -/
abbrev Handle := BitVec 8

/-- A channel number, the 4-bit CH field (30_encoding.md R103). -/
abbrev ChanId := BitVec 4

/-- A message length or payload count, 13 bits (10_state.md R33, R36). -/
abbrev MsgLen := BitVec 13

end Sys2Proof
end

