-- ==== Sys2Proof/Config.lean ====
section
/-! DEFINITION. What a build fixes (00_scope.md R6, R7), the block's agents, and the free values: what the
spec leaves unspecified (93_implementation_defined.md U1, U2). -/

namespace Sys2Proof

/-- The agents that present stimuli (60_exceptions.md R292). A host port is its number 0..NPORT-1, fixed by wiring
(R296). -/
inductive Agent where
  | serial
  | host (p : Nat)
  | scanStrobe
  | timeoutTick
  | resetLine
  deriving DecidableEq, Repr

/-- The build parameters of 00_scope.md R6, under the spec's own names. They are an argument of the machine
(U17): every State carries one parameter set and no step writes it (log 1). PLATFORM_MAP is the open platform
parameter of 20_memory.md R87 (U11): where each agent's port sits in a processor's address map. -/
structure Config where
  START : Byte
  END : Byte
  N : Nat
  S : Nat
  NCH : Nat
  DEPTH : List Nat
  C : Nat
  NPORT : Nat
  RB_CONSUMER : Nat
  EV0 : Byte
  EV1 : Byte
  PLATFORM_MAP : List (Agent × Nat)
  deriving DecidableEq, Repr

/-- The legal ranges of 00_scope.md R6. A set outside them describes no UFDB (R7). -/
def Config.legal (g : Config) : Bool :=
  g.START != g.END
    && decide (1 ≤ g.N ∧ g.N ≤ 256)
    && decide (1 ≤ g.S ∧ g.S ≤ 4096)
    && decide (1 ≤ g.NCH ∧ g.NCH ≤ 16)
    && g.DEPTH.length == g.NCH
    && g.DEPTH.all (fun d => decide (1 ≤ d ∧ d ≤ 65535))
    && decide (1 ≤ g.C ∧ g.C ≤ 65535)
    && decide (1 ≤ g.NPORT ∧ g.NPORT ≤ 16)
    && decide (g.RB_CONSUMER < g.NPORT)
    && g.EV0 != g.EV1

/-- `DEPTH[c]`; a channel the build does not have has no room (reached by no legal command). -/
def Config.depth (g : Config) (c : ChanId) : Nat := g.DEPTH.getD c.toNat 0

/-- The parameters of the test vectors (95_test_vectors.md section 0). DESIGN CHOICE for N, S, DEPTH, C and
NPORT, which have no default in R6 (log 1). -/
def Config.testVectors : Config where
  START := 0x23#8
  END := 0x24#8
  N := 2
  S := 8
  NCH := 2
  DEPTH := [2, 2]
  C := 4
  NPORT := 2
  RB_CONSUMER := 0
  EV0 := 0x01#8
  EV1 := 0x02#8
  PLATFORM_MAP := []

/-- U1: what pool address `a` holds between the `epoch`-th reset and the first write to it: any value. -/
opaque Config.freePoolByte (epoch a : Nat) : Byte

/-- U2: what ring slot `i` holds between the `epoch`-th reset and the first put into it: any value. -/
opaque Config.freeRingByte (epoch i : Nat) : Byte

end Sys2Proof
end

