-- ==== Sys2Proof/Syntax.lean ====
section
/-! DEFINITION. The stimuli the block accepts: as presented on its ports (`Stimulus`) and as instructions
(`Instr`, one constructor per row of opcode_table.json). -/

namespace Sys2Proof

/-- A stimulus as an agent presents it: a command word on host port `p` (30_encoding.md R100), or an input
event with its payload bits (R112). -/
inductive Stimulus where
  | command (p : Nat) (w : Word)
  | rx (b : Byte)
  | scanStrobe (ts : BitVec 2)
  | timeoutTick
  | resetLine
  deriving DecidableEq, Repr

/-- Which agent presents a stimulus (60_exceptions.md R292). -/
def Stimulus.agent : Stimulus → Agent
  | .command p _ => .host p
  | .rx _ => .serial
  | .scanStrobe _ => .scanStrobe
  | .timeoutTick => .timeoutTick
  | .resetLine => .resetLine

/-- The block's instructions (00_scope.md R3). A host command carries the port that presents it; its other
operands are the fields of its word, at their widths. -/
inductive Instr where
  /-- R174 -/
  | acquire (p : Nat)
  /-- R176 -/
  | release (p : Nat) (h : Handle)
  /-- R178, operands in the order of R114 -/
  | post (p : Nat) (c : ChanId) (h : Handle) (len : BitVec 16)
  /-- R180 -/
  | recv (p : Nat) (c : ChanId) (tmo : BitVec 16)
  /-- R184 -/
  | bufRd (p : Nat) (h : Handle) (off : BitVec 12)
  /-- R186 -/
  | bufWr (p : Nat) (h : Handle) (off : BitVec 12) (data : Byte)
  /-- R242 -/
  | rbGet (p : Nat)
  /-- R260 -/
  | rdstat (p : Nat) (reg : Byte)
  /-- R140 -/
  | rxByte (b : Byte)
  /-- R220 -/
  | scan (s0 s1 : Bool)
  /-- R182 -/
  | tick
  /-- R320 -/
  | reset
  deriving DecidableEq, Repr

/-- The host port of a command; an input event has none. -/
def Instr.port? : Instr → Option Nat
  | .acquire p | .release p _ | .post p _ _ _ | .recv p _ _ => some p
  | .bufRd p _ _ | .bufWr p _ _ _ | .rbGet p | .rdstat p _ => some p
  | .rxByte _ | .scan _ _ | .tick | .reset => none

end Sys2Proof
end

