-- ==== Sys2Proof/Machine/State.lean ====
section
/-! DEFINITION. The machine's state (10_state.md), as plain data, its reset value (70_reset_and_hazards.md
R320, R321), and the reasons a step can stop. -/

namespace Sys2Proof.Machine

/-- Stored bytes: (address, byte) pairs, addresses strictly rising. An unlisted address holds no written value
(10_state.md R35, R38): what a read of it gives is a free value (log 6, log 7). -/
abbrev Memory := List Host.Cell

/-- The canonical form of a memory. No listed byte can equal what an unlisted address holds (no value). -/
abbrev Memory.wf (m : Memory) : Prop := m.Pairwise (fun x y => x.1 < y.1)

/-- The holder of a buffer (10_state.md R34). -/
inductive Owner where
  | free
  | dec
  | queued (c : ChanId)
  | held (p : Nat)
  deriving DecidableEq, Repr

/-- A channel message `(h, len)` (10_state.md R36). -/
structure Msg where
  h : Handle
  len : MsgLen
  deriving DecidableEq, Repr

/-- The TICK events a waiting RECV has left (10_state.md R37). -/
inductive Remaining where
  | forever
  | ticks (n : BitVec 16)
  deriving DecidableEq, Repr

/-- The command state of a host port (10_state.md R37). -/
inductive PortState where
  | idle
  | wait (c : ChanId) (rem : Remaining)
  deriving DecidableEq, Repr

/-- The debounce state of one input (10_state.md R39; the value 3 does not exist, U3). -/
inductive DbState where
  | idle
  | candidate
  | confirmed
  deriving DecidableEq, Repr

/-- `fatal_code` (10_state.md R32, 60_exceptions.md R284). -/
inductive FatalCode where
  | none
  | doubleRelease
  | notOwner
  | secondConsumer
  deriving DecidableEq, Repr

/-- Response codes (30_encoding.md R111); 7..15 are never returned (U7). -/
inductive Rc where
  | ok
  | exhausted
  | full
  | empty
  | timeout
  | illegal
  | halted
  deriving DecidableEq, Repr

/-- Diagnostic codes (60_exceptions.md R283); 0 and 6..14 are never emitted (U8). -/
inductive DiagCode where
  | poolExhausted
  | channelFull
  | frameOverflow
  | strayEnd
  | ringFull
  | fatal
  deriving DecidableEq, Repr

/-- What the block puts out: a response word on a host port (30_encoding.md R110) or a diagnostic event
(60_exceptions.md R282). -/
inductive Output where
  | resp (p : Nat) (w : Word)
  | diag (d : DiagCode)
  deriving DecidableEq, Repr

/-- The state of the block (10_state.md R31 to R39), under the spec's names, and three fields of the model's
own: `trace` (R44, log 8), `inbox` (R89 to R91, log 2) and `epoch` (log 6). -/
structure State where
  /-- R6: fixed at build time; no step writes it. -/
  cfg : Config
  /-- R31 -/
  halted : Bool
  /-- R32 -/
  fatalCode : FatalCode
  /-- R32 -/
  fatalPort : BitVec 4
  /-- R32 -/
  fatalHandle : Handle
  /-- R33, `dec.rcv` -/
  decRcv : Bool
  /-- R33, `dec.h`; `none` is NONE. -/
  decH : Option Handle
  /-- R33, `dec.cnt` -/
  decCnt : MsgLen
  /-- R34, `owner[h]` at index h, N of them -/
  owner : List Owner
  /-- R35, pool storage by pool address -/
  pool : Memory
  /-- R36, `ch[c]` at index c, NCH of them, each oldest message first -/
  ch : List (List Msg)
  /-- R37, `port[p]` at index p, NPORT of them -/
  port : List PortState
  /-- R38, `rb.store` by slot index -/
  rbStore : Memory
  /-- R38, `rb.rd` -/
  rbRd : BitVec 16
  /-- R38, `rb.wr` -/
  rbWr : BitVec 16
  /-- R38, `rb.cnt` -/
  rbCnt : BitVec 16
  /-- R39, `db.st[0]` -/
  dbSt0 : DbState
  /-- R39, `db.st[1]` -/
  dbSt1 : DbState
  /-- Everything put out so far, oldest first (R44). -/
  trace : List Output
  /-- The stimuli the agents have presented and the block has not yet taken, in the order it takes them. -/
  inbox : List Stimulus
  /-- How many RESETs have made storage unspecified: an argument of the free values. -/
  epoch : Nat
  deriving DecidableEq, Repr

/-- Why the machine stops with a fault. No state that meets the invariants of 10_state.md R41 reaches one. -/
inductive Fault where
  /-- Raised by a storage access at pool address `a`, at or above N*S, which does not exist (20_memory.md R80).
  Safe: the model stops where the spec describes no access (log 11). -/
  | poolAddress (a : Nat)
  /-- Raised by RX_BYTE when the decoder is receiving (`dec.rcv = 1`) with `dec.h = NONE`, which 10_state.md R33
  and R41 exclude. Safe (log 11). -/
  | decoderWithoutBuffer
  deriving DecidableEq, Repr

/-- Why a step is given no meaning. -/
inductive Refusal where
  /-- Raised by an arm of exec for an instruction that has no meaning yet. Safe. -/
  | notModelled (mnemonic : String)
  /-- Raised by step when the parameters are outside the ranges of 00_scope.md R6: such a set describes no UFDB
  and a model refuses it (R7, U4). Safe (log 10). -/
  | illegalParameters
  /-- Raised by a command presented on a port number at or above NPORT, which does not exist (60_exceptions.md
  R296); step never takes such a word. Safe (log 5). -/
  | noSuchPort
  /-- Raised by a command presented on a port in WAIT, which has no command step (70_reset_and_hazards.md R330,
  U6 'stuck'); step never takes such a word, it leaves it presented. Safe (log 4). -/
  | portWaiting
  deriving DecidableEq, Repr

/-- The state RESET gives a build with parameters `g` (70_reset_and_hazards.md R320), which is also its state
at power-on (R321). -/
def State.resetWith (g : Config) : State where
  cfg := g
  halted := false
  fatalCode := .none
  fatalPort := 0#4
  fatalHandle := 0#8
  decRcv := false
  decH := none
  decCnt := 0#13
  owner := List.replicate g.N .free
  pool := []
  ch := List.replicate g.NCH []
  port := List.replicate g.NPORT .idle
  rbStore := []
  rbRd := 0#16
  rbWr := 0#16
  rbCnt := 0#16
  dbSt0 := .idle
  dbSt1 := .idle
  trace := []
  inbox := []
  epoch := 0

/-- The machine right after reset, with the parameters of the test vectors (log 1). -/
def State.reset : State := State.resetWith Config.testVectors

end Sys2Proof.Machine
end

