-- ==== Sys2Proof/Machine/Memory.lean ====
section
/-! DEFINITION. The named operations over stored bytes: pool storage (20_memory.md R80) and ring slots (R81). -/

namespace Sys2Proof.Machine

/-- The byte last written at address `a`, if any has been (10_state.md R35). -/
def Memory.read : Memory → Nat → Option Byte
  | [], _ => none
  | (k, v) :: m, a => if k = a then some v else Memory.read m a

/-- Write one byte, keeping the addresses strictly rising. -/
def Memory.write : Memory → Nat → Byte → Memory
  | [], a, b => [(a, b)]
  | (k, v) :: m, a, b =>
    if a < k then (a, b) :: (k, v) :: m
    else if a = k then (a, b) :: m
    else (k, v) :: Memory.write m a b

/-- Pool storage has the addresses 0..N*S-1 (R80). -/
def poolBytes (g : Config) : Nat := g.N * g.S

/-- What pool address `a` holds: its last written byte, or an unspecified one (10_state.md R35, U1). -/
def State.poolByte (s : State) (a : Nat) : Byte :=
  (Memory.read s.pool a).getD (Config.freePoolByte s.epoch a)

/-- `MemRead(a, 1)` (00_scope.md R9); `none` at an address that does not exist. -/
def State.memRead (s : State) (a : Nat) : Option Byte :=
  if a < poolBytes s.cfg then some (s.poolByte a) else none

/-- `MemWrite(a, 1, v)` (00_scope.md R9); `none` at an address that does not exist. -/
def State.memWrite (s : State) (a : Nat) (v : Byte) : Option State :=
  if a < poolBytes s.cfg then some { s with pool := Memory.write s.pool a v } else none

/-- What ring slot `i` holds: its last put byte, or an unspecified one (10_state.md R38, U2). -/
def State.ringByte (s : State) (i : Nat) : Byte :=
  (Memory.read s.rbStore i).getD (Config.freeRingByte s.epoch i)

end Sys2Proof.Machine
end

