-- ==== Sys2Proof/Machine/Operands.lean ====
section
/-! DEFINITION. The operand forms of the instructions. -/

namespace Sys2Proof.Machine

/-- The pool address of offset `off` in buffer `h`: `h * S + off` (20_memory.md R80). -/
def poolAddr (g : Config) (h : Handle) (off : Nat) : Nat := h.toNat * g.S + off

/-- The wait of a RECV with timeout field `tmo`: 0 waits forever (41_pool_channel.md R180, D14). -/
def recvWait (c : ChanId) (tmo : BitVec 16) : PortState :=
  if tmo = 0#16 then .wait c .forever else .wait c (.ticks tmo)

/-- The LEN field of a legal POST as a message length: `len <= S <= 4096` fits 13 bits (10_state.md R36). -/
def msgLen (len : BitVec 16) : MsgLen := len.setWidth 13

/-- `owner[h]`; a handle at or above N has none. -/
def State.ownerOf (s : State) (h : Handle) : Option Owner := s.owner[h.toNat]?

/-- `owner[h] = HELD(p)` (20_memory.md R88). -/
def State.holds (s : State) (p : Nat) (h : Handle) : Bool := s.ownerOf h == some (.held p)

/-- `ch[c]`; a channel at or above NCH holds nothing. -/
def State.chan (s : State) (c : ChanId) : List Msg := s.ch.getD c.toNat []

/-- Whether a port is `WAIT(c, _)` (41_pool_channel.md R171). -/
def PortState.waitsOn (c : ChanId) : PortState → Bool
  | .idle => false
  | .wait d _ => d == c

/-- The two debounce inputs (10_state.md R39). -/
inductive DbInput where
  | in0
  | in1
  deriving DecidableEq, Repr

/-- `EV_i` (42_debounce.md R221). -/
def eventCode (g : Config) : DbInput → Byte
  | .in0 => g.EV0
  | .in1 => g.EV1

/-- `db.st[i]`. -/
def State.dbSt (s : State) : DbInput → DbState
  | .in0 => s.dbSt0
  | .in1 => s.dbSt1

end Sys2Proof.Machine
end

