-- ==== Sys2Proof/Machine/Flags.lean ====
section
/-! DEFINITION. The flags (10_state.md R40), the level outputs (60_exceptions.md R293) and the numbers that
codes and states read as. Every flag is a function of the state; nothing writes one on its own. -/

namespace Sys2Proof.Machine

/-- Ring empty (R40). -/
def State.ringEmpty (s : State) : Bool := s.rbCnt == 0#16

/-- Ring full (R40). -/
def State.ringFull (s : State) : Bool := decide (s.rbCnt.toNat = s.cfg.C)

/-- Channel empty (R40). -/
def State.chanEmpty (s : State) (c : ChanId) : Bool := (s.chan c).isEmpty

/-- Channel full (R40). -/
def State.chanFull (s : State) (c : ChanId) : Bool := decide ((s.chan c).length = s.cfg.depth c)

/-- The per-port waiting state (R37, R40). -/
def PortState.waiting : PortState → Bool
  | .idle => false
  | .wait _ _ => true

/-- Port `p` exists and has no command outstanding (R37). -/
def State.portIdle (s : State) (p : Nat) : Bool := s.port[p]? == some .idle

/-- Level output MSG_AVAIL[c] (R293). -/
def State.msgAvail (s : State) (c : ChanId) : Bool := decide ((s.chan c).length > 0)

/-- Level output RB_NONEMPTY (R293). -/
def State.rbNonempty (s : State) : Bool := decide (s.rbCnt.toNat > 0)

/-- Level output HALTED (R293). -/
def State.haltedOut (s : State) : Bool := s.halted

/-- The number of a response code (30_encoding.md R111). -/
def Rc.bits : Rc → BitVec 4
  | .ok => 0#4
  | .exhausted => 1#4
  | .full => 2#4
  | .empty => 3#4
  | .timeout => 4#4
  | .illegal => 5#4
  | .halted => 6#4

/-- The number of a diagnostic code (60_exceptions.md R283). -/
def DiagCode.bits : DiagCode → BitVec 4
  | .poolExhausted => 1#4
  | .channelFull => 2#4
  | .frameOverflow => 3#4
  | .strayEnd => 4#4
  | .ringFull => 5#4
  | .fatal => 15#4

/-- The number of a fatal code (60_exceptions.md R284). -/
def FatalCode.bits : FatalCode → BitVec 4
  | .none => 0#4
  | .doubleRelease => 1#4
  | .notOwner => 2#4
  | .secondConsumer => 3#4

/-- The number of a debounce state (10_state.md R39). -/
def DbState.bits : DbState → BitVec 2
  | .idle => 0#2
  | .candidate => 1#2
  | .confirmed => 2#2

/-- The response layout: RC [31:28], H [27:20], CH [19:16], VAL [15:0] (30_encoding.md R110). -/
def responseWord (rc : Rc) (h : Handle) (c : ChanId) (val : BitVec 16) : Word :=
  rc.bits ++ h ++ c ++ val

end Sys2Proof.Machine
end

