-- ==== Sys2Proof/WellFormed.lean ====
section
/-! DEFINITION. Which instructions a build accepts: the field ranges of 30_encoding.md R106 and the port range
of 60_exceptions.md R296. -/

namespace Sys2Proof

/-- H < N (R106). -/
def Config.handleOk (g : Config) (h : Handle) : Bool := decide (h.toNat < g.N)

/-- CH < NCH (R106). -/
def Config.chanOk (g : Config) (c : ChanId) : Bool := decide (c.toNat < g.NCH)

/-- LEN <= S (R106). -/
def Config.lenOk (g : Config) (len : BitVec 16) : Bool := decide (len.toNat ≤ g.S)

/-- OFF < S (R106). -/
def Config.offOk (g : Config) (off : BitVec 12) : Bool := decide (off.toNat < g.S)

/-- REG is in the map of 10_state.md R42: 0x00..0x07, or 0x10 + c with c < NCH (44_status.md R261). -/
def Config.regOk (g : Config) (reg : Byte) : Bool :=
  decide (reg.toNat < 0x08 ∨ (0x10 ≤ reg.toNat ∧ reg.toNat < 0x10 + g.NCH))

/-- The accepted field values of 30_encoding.md R106. A command whose fields are outside is illegal (R108). -/
def Instr.fieldsLegal (g : Config) : Instr → Bool
  | .acquire _ => true
  | .release _ h => g.handleOk h
  | .post _ c h len => g.handleOk h && g.chanOk c && g.lenOk len
  | .recv _ c _ => g.chanOk c
  | .bufRd _ h off => g.handleOk h && g.offOk off
  | .bufWr _ h off _ => g.handleOk h && g.offOk off
  | .rbGet _ => true
  | .rdstat _ reg => g.regOk reg
  | .rxByte _ => true
  | .scan _ _ => true
  | .tick => true
  | .reset => true

/-- The presenting port exists: ports are numbered 0..NPORT-1 (60_exceptions.md R296). -/
def Instr.portExists (g : Config) (i : Instr) : Bool :=
  match i.port? with
  | some p => decide (p < g.NPORT)
  | none => true

/-- An instruction the build has: its port exists and its fields are legal. -/
def Instr.wellFormed (g : Config) (i : Instr) : Bool := i.portExists g && i.fieldsLegal g

end Sys2Proof
end

