-- ==== Sys2Proof/Machine/Ops.lean ====
section
/-! DEFINITION. The shared operations: outputs and responses (00_scope.md R9), the pool and channel primitives
(41_pool_channel.md R170 to R172), the common prologue of a command (60_exceptions.md R290), fatal entry (R285)
and, beside it, RESET, the only way out of the halt (R288). -/

namespace Sys2Proof.Machine

/-- Put out one response or event (10_state.md R44). -/
def State.emit (s : State) (o : Output) : State := { s with trace := s.trace ++ [o] }

/-- `diag(code)`: it never blocks and changes nothing else (60_exceptions.md R282). -/
def State.diag (s : State) (d : DiagCode) : State := s.emit (.diag d)

/-- `port[p] <- ps`. -/
def State.setPort (s : State) (p : Nat) (ps : PortState) : State := { s with port := s.port.set p ps }

/-- `owner[h] <- o`. -/
def State.setOwner (s : State) (h : Handle) (o : Owner) : State := { s with owner := s.owner.set h.toNat o }

/-- `ch[c] <- ms`. -/
def State.setChan (s : State) (c : ChanId) (ms : List Msg) : State := { s with ch := s.ch.set c.toNat ms }

/-- `respond(p, rc, data)`: complete the command outstanding on port `p`; `port[p] <- IDLE` (00_scope.md R9). -/
def State.respond (s : State) (p : Nat) (rc : Rc) (h : Handle) (c : ChanId) (val : BitVec 16) : State :=
  (s.setPort p .idle).emit (.resp p (responseWord rc h c val))

/-- `respond(p, rc, 0)`. -/
def State.answer (s : State) (p : Nat) (rc : Rc) : State := s.respond p rc 0#8 0#4 0#16

/-- `dec.rcv <- 0; dec.cnt <- 0; dec.h <- NONE` (40_frame_decoder.md R143, R144). -/
def State.decIdle (s : State) : State := { s with decRcv := false, decCnt := 0#13, decH := none }

/-- `db.st[i] <- d`. -/
def State.setDb (s : State) (i : DbInput) (d : DbState) : State :=
  match i with
  | .in0 => { s with dbSt0 := d }
  | .in1 => { s with dbSt1 := d }

/-- `Alloc()`: the lowest-numbered free handle, or NONE; it changes nothing (41_pool_channel.md R170). -/
def State.alloc (s : State) : Option Handle :=
  (s.owner.findIdx? (fun o => o == .free)).map (BitVec.ofNat 8)

/-- `Waiter(c)`: the lowest-numbered port waiting on channel `c`, or NONE (41_pool_channel.md R171). -/
def State.waiter (s : State) (c : ChanId) : Option Nat :=
  s.port.findIdx? (fun ps => ps.waitsOn c)

/-- `Deliver(c, h, len)`: straight to a waiting port, else to the tail of the FIFO if there is room; `none` is
FULL, with nothing changed (41_pool_channel.md R172). -/
def State.deliver (s : State) (c : ChanId) (h : Handle) (len : MsgLen) : Option State :=
  match s.waiter c with
  | some q => some ((s.setOwner h (.held q)).respond q .ok h c (len.setWidth 16))
  | none =>
    if (s.chan c).length < s.cfg.depth c then
      some ((s.setChan c (s.chan c ++ [⟨h, len⟩])).setOwner h (.queued c))
    else none

/-- The answers of one sweep over the ports, the first port of the list being number `q`: port order. -/
def sweepAnswers (f : PortState → PortState × Option Rc) : Nat → List PortState → List Output
  | _, [] => []
  | q, ps :: rest =>
    match (f ps).2 with
    | some rc => .resp q (responseWord rc 0#8 0#4 0#16) :: sweepAnswers f (q + 1) rest
    | none => sweepAnswers f (q + 1) rest

/-- 'For every port': each port's new command state and the answer it is given, if any, both from its state
before the step (41_pool_channel.md R182, 60_exceptions.md R285). DESIGN CHOICE: the trace lists the answers in
port order (log 8). -/
def State.sweepPorts (s : State) (f : PortState → PortState × Option Rc) : State :=
  { s with
    port := s.port.map (fun ps => (f ps).1)
    trace := s.trace ++ sweepAnswers f 0 s.port }

/-- A waiting RECV completes with HALTED (60_exceptions.md R285). -/
def haltPort : PortState → PortState × Option Rc
  | .idle => (.idle, none)
  | .wait _ _ => (.idle, some .halted)

/-- `halted <- 1` and the fatal record (60_exceptions.md R285). -/
def State.recordFatal (s : State) (code : FatalCode) (p : Nat) (h : Handle) : State :=
  { s with halted := true, fatalCode := code, fatalPort := BitVec.ofNat 4 p, fatalHandle := h }

/-- `raise Fatal(code, p, h)`: taking the block's one exception. The record is written, FATAL is emitted, every
waiting RECV and then the offending command are answered HALTED; everything else is frozen (60_exceptions.md
R285, R286). -/
def takeFatal (code : FatalCode) (p : Nat) (h : Handle) (s : State) : State :=
  (((s.recordFatal code p h).diag .fatal).sweepPorts haltPort).answer p .halted

/-- RESET, the only return from the halt (60_exceptions.md R288): every element to its reset value, storage
unspecified anew, no response and no event (70_reset_and_hazards.md R320). The observer's trace and the agents'
presented stimuli are not the block's to clear (10_state.md R44, log 2). -/
def resetBlock (s : State) : State :=
  { State.resetWith s.cfg with trace := s.trace, inbox := s.inbox, epoch := s.epoch + 1 }

/-- RDSTAT is the one command served while halted (60_exceptions.md R287). -/
def servedWhileHalted : Instr → Bool
  | .rdstat _ _ => true
  | .acquire _ | .release _ _ | .post _ _ _ _ | .recv _ _ _ => false
  | .bufRd _ _ _ | .bufWr _ _ _ _ | .rbGet _ => false
  | .rxByte _ | .scan _ _ | .tick | .reset => false

/-- The common prologue of command `i` on port `p` and the order of its checks (60_exceptions.md R290): an
illegal field is answered ILLEGAL, then a halted block answers HALTED, then `body` decides. A port in WAIT has
no command step (70_reset_and_hazards.md R330, U6, log 4) and a port that does not exist presents no command
(R296, log 5). -/
def prologue (i : Instr) (p : Nat) (s : State) (body : Host.Outcome State Fault Refusal) :
    Host.Outcome State Fault Refusal :=
  match s.port[p]? with
  | none => .refused .noSuchPort
  | some (.wait _ _) => .refused .portWaiting
  | some .idle =>
    if i.fieldsLegal s.cfg = false then .next (s.answer p .illegal)
    else if s.halted = true ∧ servedWhileHalted i = false then .next (s.answer p .halted)
    else body

/-- A word on port `p` that no row of the opcode map accepts: ILLEGAL, also while halted, and nothing else
(30_encoding.md R108, 60_exceptions.md R281). -/
def illegalWord (p : Nat) (s : State) : Host.Outcome State Fault Refusal :=
  match s.port[p]? with
  | none => .refused .noSuchPort
  | some (.wait _ _) => .refused .portWaiting
  | some .idle => .next (s.answer p .illegal)

end Sys2Proof.Machine
end

