-- ==== Sys2Proof/Machine/RingBuffer.lean ====
section
/-! DEFINITION. The Ring Buffer: the internal put and RB_GET (43_ring_buffer.md). -/

namespace Sys2Proof.Machine

/-- The ring index after `i`: `(i + 1) mod C`. -/
def ringNext (g : Config) (i : BitVec 16) : BitVec 16 := BitVec.ofNat 16 ((i.toNat + 1) % g.C)

/-- `RingPut(v)` (R240); `none` is FULL, with nothing changed. -/
def State.ringPut (s : State) (v : Byte) : Option State :=
  if s.ringFull = true then none
  else
    some
      { s with
        rbStore := Memory.write s.rbStore s.rbWr.toNat v
        rbWr := ringNext s.cfg s.rbWr
        rbCnt := s.rbCnt + 1#16 }

/-- RB_GET (R242): SECOND_CONSUMER is checked before the ring is looked at (R290); the slot read is not
cleared. -/
def execRbGet (p : Nat) (s : State) : Host.Outcome State Fault Refusal :=
  prologue (.rbGet p) p s <|
    if p ≠ s.cfg.RB_CONSUMER then .next (takeFatal .secondConsumer p 0#8 s)
    else if s.ringEmpty = true then .next (s.answer p .empty)
    else
      .next
        ({ s with rbRd := ringNext s.cfg s.rbRd, rbCnt := s.rbCnt - 1#16 }.respond p .ok 0#8 0#4
          ((s.ringByte s.rbRd.toNat).setWidth 16))

end Sys2Proof.Machine
end

