-- ==== Sys2Proof/Machine/Debounce.lean ====
section
/-! DEFINITION. The Debounce Scanner: SCAN (42_debounce.md). -/

namespace Sys2Proof.Machine

/-- `Push(i)` (R221): a push that the full ring refuses leaves the press CONFIRMED and is reported (R222). -/
def push (i : DbInput) (s : State) : State :=
  match s.ringPut (eventCode s.cfg i) with
  | some t => t.setDb i .idle
  | none => (s.setDb i .confirmed).diag .ringFull

/-- `DbStep(i, s)` (R221) with sample `smp`; CONFIRMED retries whatever the sample is (R222). -/
def dbStep (i : DbInput) (smp : Bool) (s : State) : State :=
  match s.dbSt i, smp with
  | .idle, true => s.setDb i .candidate
  | .idle, false => s.setDb i .idle
  | .candidate, true => push i s
  | .candidate, false => s.setDb i .idle
  | .confirmed, _ => push i s

/-- SCAN (R220): input 0 first, so input 1 sees the ring after input 0's push (D17). -/
def execScan (s0 s1 : Bool) (s : State) : Host.Outcome State Fault Refusal :=
  if s.halted = true then .next s else .next (dbStep .in1 s1 (dbStep .in0 s0 s))

end Sys2Proof.Machine
end

