-- ==== Sys2Proof/Machine/FrameDecoder.lean ====
section
/-! DEFINITION. The Frame Decoder: RX_BYTE and its seven cases (40_frame_decoder.md). -/

namespace Sys2Proof.Machine

/-- Case START (R141): the START byte is not written. -/
def rxStart (s : State) : State :=
  match s.alloc with
  | none => s.diag .poolExhausted
  | some h => { s.setOwner h .dec with decH := some h, decRcv := true, decCnt := 0#13 }

/-- Case PAYLOAD (R142), also for a START byte while receiving (R140). -/
def rxPayload (h : Handle) (b : Byte) (s : State) : Host.Outcome State Fault Refusal :=
  match s.memWrite (poolAddr s.cfg h s.decCnt.toNat) b with
  | none => .fault (.poolAddress (poolAddr s.cfg h s.decCnt.toNat))
  | some t => .next { t with decCnt := s.decCnt + 1#13 }

/-- Case OVERFLOW (R143): the byte is dropped, even a START (D6). -/
def rxOverflow (h : Handle) (s : State) : State :=
  ((s.setOwner h .free).decIdle).diag .frameOverflow

/-- Case END (R144): the length is the payload count, END not counted (D5, C1); a full channel loses the frame
and frees its buffer (D7, C6). The frame channel is 0. -/
def rxEnd (h : Handle) (s : State) : State :=
  match s.deliver 0#4 h s.decCnt with
  | none => ((s.setOwner h .free).diag .channelFull).decIdle
  | some t => t.decIdle

/-- RX_BYTE (R140): one case, chosen by HALTED (R147), then the receiving flag, then the byte; STRAY_END (R145)
and IDLE_BYTE (R146) change no state. -/
def execRxByte (b : Byte) (s : State) : Host.Outcome State Fault Refusal :=
  if s.halted = true then .next s
  else if s.decRcv = false then
    if b = s.cfg.START then .next (rxStart s)
    else if b = s.cfg.END then .next (s.diag .strayEnd)
    else .next s
  else
    match s.decH with
    | none => .fault .decoderWithoutBuffer
    | some h =>
      if b = s.cfg.END then .next (rxEnd h s)
      else if s.decCnt.toNat = s.cfg.S then .next (rxOverflow h s)
      else rxPayload h b s

end Sys2Proof.Machine
end

