-- ==== Sys2Proof/Machine/PoolChannel.lean ====
section
/-! DEFINITION. The Pool and Channel unit: ACQUIRE, RELEASE, POST, RECV, TICK, BUF_RD, BUF_WR
(41_pool_channel.md). -/

namespace Sys2Proof.Machine

/-- ACQUIRE (R174). -/
def execAcquire (p : Nat) (s : State) : Host.Outcome State Fault Refusal :=
  prologue (.acquire p) p s <|
    match s.alloc with
    | none => .next (s.answer p .exhausted)
    | some h => .next ((s.setOwner h (.held p)).respond p .ok h 0#4 0#16)

/-- RELEASE (R176): DOUBLE_RELEASE is checked before NOT_OWNER (R290). -/
def execRelease (p : Nat) (h : Handle) (s : State) : Host.Outcome State Fault Refusal :=
  prologue (.release p h) p s <|
    if s.ownerOf h = some .free then .next (takeFatal .doubleRelease p h s)
    else if s.holds p h = false then .next (takeFatal .notOwner p h s)
    else .next ((s.setOwner h .free).answer p .ok)

/-- POST (R178). -/
def execPost (p : Nat) (c : ChanId) (h : Handle) (len : BitVec 16) (s : State) :
    Host.Outcome State Fault Refusal :=
  prologue (.post p c h len) p s <|
    if s.holds p h = false then .next (takeFatal .notOwner p h s)
    else
      match s.deliver c h (msgLen len) with
      | none => .next (s.answer p .full)
      | some t => .next (t.answer p .ok)

/-- RECV (R180). -/
def execRecv (p : Nat) (c : ChanId) (tmo : BitVec 16) (s : State) : Host.Outcome State Fault Refusal :=
  prologue (.recv p c tmo) p s <|
    match s.chan c with
    | m :: rest =>
      .next (((s.setChan c rest).setOwner m.h (.held p)).respond p .ok m.h c (m.len.setWidth 16))
    | [] => .next (s.setPort p (recvWait c tmo))

/-- One TICK at a port (R182): the last tick of a timeout answers TIMEOUT, FOREVER is untouched. -/
def tickPort : PortState → PortState × Option Rc
  | .idle => (.idle, none)
  | .wait c .forever => (.wait c .forever, none)
  | .wait c (.ticks r) => if r = 1#16 then (.idle, some .timeout) else (.wait c (.ticks (r - 1#16)), none)

/-- TICK (R182). -/
def execTick (s : State) : Host.Outcome State Fault Refusal :=
  if s.halted = true then .next s else .next (s.sweepPorts tickPort)

/-- BUF_RD (R184). -/
def execBufRd (p : Nat) (h : Handle) (off : BitVec 12) (s : State) : Host.Outcome State Fault Refusal :=
  prologue (.bufRd p h off) p s <|
    if s.holds p h = false then .next (takeFatal .notOwner p h s)
    else
      match s.memRead (poolAddr s.cfg h off.toNat) with
      | none => .fault (.poolAddress (poolAddr s.cfg h off.toNat))
      | some v => .next (s.respond p .ok 0#8 0#4 (v.setWidth 16))

/-- BUF_WR (R186). -/
def execBufWr (p : Nat) (h : Handle) (off : BitVec 12) (data : Byte) (s : State) :
    Host.Outcome State Fault Refusal :=
  prologue (.bufWr p h off data) p s <|
    if s.holds p h = false then .next (takeFatal .notOwner p h s)
    else
      match s.memWrite (poolAddr s.cfg h off.toNat) data with
      | none => .fault (.poolAddress (poolAddr s.cfg h off.toNat))
      | some t => .next (t.answer p .ok)

end Sys2Proof.Machine
end

