-- ==== Sys2Proof/Machine/Status.lean ====
section
/-! DEFINITION. The status registers (10_state.md R42) and RDSTAT (44_status.md). -/

namespace Sys2Proof.Machine

/-- Bit `p` is 1 if `port[p]` is WAIT, as a number. -/
def portWaitNumber : List PortState → Nat
  | [] => 0
  | ps :: rest => (if ps.waiting then 1 else 0) + 2 * portWaitNumber rest

/-- STATUS, register 0x00. -/
def regStatus (s : State) : BitVec 16 :=
  0#8 ++ s.fatalCode.bits ++ BitVec.ofBool s.ringFull ++ BitVec.ofBool s.ringEmpty
    ++ BitVec.ofBool s.decRcv ++ BitVec.ofBool s.halted

/-- FATAL_LOC, register 0x01. -/
def regFatalLoc (s : State) : BitVec 16 := s.fatalHandle ++ 0#4 ++ s.fatalPort

/-- DEC_COUNT, register 0x02. -/
def regDecCount (s : State) : BitVec 16 := s.decCnt.setWidth 16

/-- DEC_HANDLE, register 0x03: `dec.h` reads 0 when no frame is in progress. -/
def regDecHandle (s : State) : BitVec 16 :=
  0#7 ++ BitVec.ofBool s.decRcv ++ (if s.decRcv then s.decH.getD 0#8 else 0#8)

/-- POOL_FREE, register 0x04. -/
def regPoolFree (s : State) : BitVec 16 := BitVec.ofNat 16 (s.owner.countP (fun o => o == .free))

/-- DB_STATE, register 0x06. -/
def regDbState (s : State) : BitVec 16 := 0#12 ++ s.dbSt1.bits ++ s.dbSt0.bits

/-- PORT_WAIT, register 0x07. -/
def regPortWait (s : State) : BitVec 16 := BitVec.ofNat 16 (portWaitNumber s.port)

/-- `StatusReg(reg)`: the map of R42, `none` outside it (R261). -/
def statusReg (s : State) (reg : Byte) : Option (BitVec 16) :=
  match reg.toNat with
  | 0x00 => some (regStatus s)
  | 0x01 => some (regFatalLoc s)
  | 0x02 => some (regDecCount s)
  | 0x03 => some (regDecHandle s)
  | 0x04 => some (regPoolFree s)
  | 0x05 => some s.rbCnt
  | 0x06 => some (regDbState s)
  | 0x07 => some (regPortWait s)
  | r =>
    if 0x10 ≤ r ∧ r < 0x10 + s.cfg.NCH then
      some (BitVec.ofNat 16 (s.chan (BitVec.ofNat 4 (r - 0x10))).length)
    else none

/-- RDSTAT (R260): served while halted; a register outside the map is ILLEGAL (R261). -/
def execRdstat (p : Nat) (reg : Byte) (s : State) : Host.Outcome State Fault Refusal :=
  prologue (.rdstat p reg) p s <|
    match statusReg s reg with
    | some v => .next (s.respond p .ok 0#8 0#4 v)
    | none => .next (s.answer p .illegal)

end Sys2Proof.Machine
end

