-- ==== Sys2Proof/Machine/Dispatch.lean ====
section
/-! DEFINITION. One arm per instruction. -/

namespace Sys2Proof.Machine

def exec (i : Instr) (s : State) : Host.Outcome State Fault Refusal :=
  match i with
  | .acquire p => Sys2Proof.Machine.execAcquire p s
  | .release p h => Sys2Proof.Machine.execRelease p h s
  | .post p c h len => Sys2Proof.Machine.execPost p c h len s
  | .recv p c tmo => Sys2Proof.Machine.execRecv p c tmo s
  | .bufRd p h off => Sys2Proof.Machine.execBufRd p h off s
  | .bufWr p h off data => Sys2Proof.Machine.execBufWr p h off data s
  | .rbGet p => Sys2Proof.Machine.execRbGet p s
  | .rdstat p reg => Sys2Proof.Machine.execRdstat p reg s
  | .rxByte b => Sys2Proof.Machine.execRxByte b s
  | .scan s0 s1 => Sys2Proof.Machine.execScan s0 s1 s
  | .tick => Sys2Proof.Machine.execTick s
  | .reset => Sys2Proof.Machine.execReset s

end Sys2Proof.Machine
end

