-- ==== Sys2Proof/Decode.lean ====
section
/-! DEFINITION. Decoding of stimuli (30_encoding.md R100 to R108, R112) and, after it, the encoder. The decoder
is total: a word whose OP or reserved bits no row accepts is rejected by name; the field ranges of R106, which
depend on the build, are `Instr.fieldsLegal`. -/

namespace Sys2Proof

/-- A row of the opcode map (R106): a word `w` is the row's command when `w &&& mask = bits`. -/
structure CommandRow where
  bits : Word
  mask : Word
  deriving DecidableEq, Repr

def rowAcquire : CommandRow := ⟨0x10000000#32, 0xFFFFFFFF#32⟩
def rowRelease : CommandRow := ⟨0x20000000#32, 0xF00FFFFF#32⟩
def rowPost : CommandRow := ⟨0x30000000#32, 0xF0000000#32⟩
def rowRecv : CommandRow := ⟨0x40000000#32, 0xFFF00000#32⟩
def rowBufRd : CommandRow := ⟨0x50000000#32, 0xF00000FF#32⟩
def rowBufWr : CommandRow := ⟨0x60000000#32, 0xF0000000#32⟩
def rowRbGet : CommandRow := ⟨0x70000000#32, 0xFFFFFFFF#32⟩
def rowRdstat : CommandRow := ⟨0x80000000#32, 0xFFFFFF00#32⟩

/-- The opcode map of R106. -/
def commandRows : List CommandRow :=
  [rowAcquire, rowRelease, rowPost, rowRecv, rowBufRd, rowBufWr, rowRbGet, rowRdstat]

/-- `w & mask = match` (R106). -/
def CommandRow.accepts (r : CommandRow) (w : Word) : Bool := w &&& r.mask == r.bits

/-- OP, bits [31:28] (R100). -/
def opField (w : Word) : BitVec 4 := w.extractLsb' 28 4

/-- H, bits [27:20] (R102 to R104). -/
def handleField (w : Word) : Handle := w.extractLsb' 20 8

/-- CH, bits [19:16] (R103). -/
def chanField (w : Word) : ChanId := w.extractLsb' 16 4

/-- VAL, bits [15:0] (R103): LEN of a POST, TMO of a RECV. -/
def valField (w : Word) : BitVec 16 := w.extractLsb' 0 16

/-- OFF, bits [19:8] (R104). -/
def offField (w : Word) : BitVec 12 := w.extractLsb' 8 12

/-- DATA, bits [7:0] (R104); also REG (R105). -/
def lowByteField (w : Word) : Byte := w.extractLsb' 0 8

/-- Why a word is no command at all (R108): its OP is 0x0 or 0x9..0xF, or a reserved bit of its format is 1. -/
inductive DecodeReject where
  | opcode
  | reservedBits
  deriving DecidableEq, Repr

/-- What a stimulus decodes to. A rejected word keeps the port it was presented on, which is owed an answer. -/
inductive Decoded where
  | instr (i : Instr)
  | reject (p : Nat) (r : DecodeReject)
  deriving DecidableEq, Repr

/-- The reserved bits are checked against the row's mask (R107). -/
def checkRow (r : CommandRow) (p : Nat) (w : Word) (i : Instr) : Decoded :=
  if r.accepts w then .instr i else .reject p .reservedBits

/-- A command word on port `p`: select by OP, then check the reserved bits (R107). -/
def decodeCommand (p : Nat) (w : Word) : Decoded :=
  match (opField w).toNat with
  | 1 => checkRow rowAcquire p w (.acquire p)
  | 2 => checkRow rowRelease p w (.release p (handleField w))
  | 3 => checkRow rowPost p w (.post p (chanField w) (handleField w) (valField w))
  | 4 => checkRow rowRecv p w (.recv p (chanField w) (valField w))
  | 5 => checkRow rowBufRd p w (.bufRd p (handleField w) (offField w))
  | 6 => checkRow rowBufWr p w (.bufWr p (handleField w) (offField w) (lowByteField w))
  | 7 => checkRow rowRbGet p w (.rbGet p)
  | 8 => checkRow rowRdstat p w (.rdstat p (lowByteField w))
  | _ => .reject p .opcode

/-- Every stimulus decodes (R107, R112): bit 0 of a SCAN payload is input 0's sample, bit 1 input 1's. -/
def decode : Stimulus → Decoded
  | .command p w => decodeCommand p w
  | .rx b => .instr (.rxByte b)
  | .scanStrobe ts => .instr (.scan (ts.getLsbD 0) (ts.getLsbD 1))
  | .timeoutTick => .instr .tick
  | .resetLine => .instr .reset

/-- The stimulus that presents an instruction, from the formats of R101 to R105 and the payloads of R112. -/
def encode : Instr → Stimulus
  | .acquire p => .command p (1#4 ++ 0#28)
  | .release p h => .command p (2#4 ++ h ++ 0#20)
  | .post p c h len => .command p (3#4 ++ h ++ c ++ len)
  | .recv p c tmo => .command p (4#4 ++ 0#8 ++ c ++ tmo)
  | .bufRd p h off => .command p (5#4 ++ h ++ off ++ 0#8)
  | .bufWr p h off data => .command p (6#4 ++ h ++ off ++ data)
  | .rbGet p => .command p (7#4 ++ 0#28)
  | .rdstat p reg => .command p (8#4 ++ 0#20 ++ reg)
  | .rxByte b => .rx b
  | .scan s0 s1 => .scanStrobe (BitVec.ofBool s1 ++ BitVec.ofBool s0)
  | .tick => .timeoutTick
  | .reset => .resetLine

/-- A word as a byte-wide platform bus carries it, least significant byte first (20_memory.md R84, D31). -/
def wordToBusBytes (w : Word) : List Byte :=
  [w.extractLsb' 0 8, w.extractLsb' 8 8, w.extractLsb' 16 8, w.extractLsb' 24 8]

/-- The word four bus bytes carry, least significant first (R84); any other count carries no word. -/
def busBytesToWord : List Byte → Option Word
  | [b0, b1, b2, b3] => some (b3 ++ b2 ++ b1 ++ b0)
  | _ => none

/-- The stimulus of an opcode-table row's word of `nbits` bits, command words on port `p`. The table gives a
command row 32 bits; an event row's payload does not name its port, so its width does: up to 8 bits a received
byte, up to 2 a sample pair, none a tick (log 3). -/
def tableStimulus (p : Nat) (nbits w : Nat) : Stimulus :=
  if nbits = 0 then .timeoutTick
  else if nbits ≤ 2 then .scanStrobe (BitVec.ofNat 2 w)
  else if nbits ≤ 8 then .rx (BitVec.ofNat 8 w)
  else .command p (BitVec.ofNat 32 (w % 2 ^ nbits))

/-- The instruction the decoder reads from an opcode-table word, on the port `withFetchWord` uses at reset. -/
def decodeTableWord (nbits w : Nat) : Option Instr :=
  match decode (tableStimulus Config.testVectors.RB_CONSUMER nbits w) with
  | .instr i => some i
  | .reject _ _ => none

end Sys2Proof
end

