-- ==== Sys2Proof/Machine/Inbox.lean ====
section
/-! DEFINITION. Which presented stimulus the block takes next (20_memory.md R89 to R91). -/

namespace Sys2Proof.Machine

/-- A stimulus the block has a step for: every input event, and a command word whose port is IDLE; a word of a
waiting port is held (70_reset_and_hazards.md R330, 60_exceptions.md R298). -/
def State.canTake (s : State) : Stimulus → Bool
  | .command p _ => s.portIdle p
  | .rx _ | .scanStrobe _ | .timeoutTick | .resetLine => true

/-- The first stimulus of a list the block has a step for, and the list without it. Words held before it stay,
so one agent's stimuli keep their order (R91). -/
def takeFirst (can : Stimulus → Bool) : List Stimulus → Option (Stimulus × List Stimulus)
  | [] => none
  | st :: rest =>
    if can st then some (st, rest)
    else
      match takeFirst can rest with
      | some (x, ys) => some (x, st :: ys)
      | none => none

/-- The stimulus taken next, if there is one to take. -/
def State.takeNext (s : State) : Option (Stimulus × List Stimulus) := takeFirst s.canTake s.inbox

/-- An agent presents a stimulus (what the environment does between steps). -/
def State.present (s : State) (st : Stimulus) : State := { s with inbox := s.inbox ++ [st] }

/-- The port of a command word made IDLE, so that the word can be taken; an event needs nothing. -/
def State.readyFor (s : State) : Stimulus → State
  | .command p _ => s.setPort p .idle
  | .rx _ | .scanStrobe _ | .timeoutTick | .resetLine => s

/-- Present the stimulus of an opcode-table word first, a command word on the ring consumer's port, so that the
very next step takes it (log 3). -/
def presentFirst (s : State) (nbits w : Nat) : State :=
  let st := tableStimulus s.cfg.RB_CONSUMER nbits w
  { s.readyFor st with inbox := st :: s.inbox }

end Sys2Proof.Machine
end

