-- ==== Sys2Proof/Machine/Run.lean ====
section
/-! DEFINITION. What one step does around exec: take a stimulus, decode it, run it. -/

namespace Sys2Proof.Machine

/-- Run a decoded stimulus; a word that is no command is answered ILLEGAL (30_encoding.md R108). -/
def runDecoded (d : Decoded) (s : State) : Host.Outcome State Fault Refusal :=
  match d with
  | .instr i => exec i s
  | .reject p _ => illegalWord p s

/-- One atomic step (20_memory.md R89). A parameter set outside R6 is refused (00_scope.md R7). DESIGN CHOICE:
with no stimulus to take the block stays as it is (log 9). -/
def stepOnce (s : State) : Host.Outcome State Fault Refusal :=
  if s.cfg.legal = true then
    match s.takeNext with
    | none => .next s
    | some (st, rest) => runDecoded (decode st) { s with inbox := rest }
  else .refused .illegalParameters

end Sys2Proof.Machine
end

