-- ==== Sys2Proof/Machine/Step.lean ====
section
/-! DEFINITION. The machine's step, and how a table word comes to be the next stimulus. -/

namespace Sys2Proof.Machine

/-- One step: next state, fault or refusal. -/
def step (s : State) : Host.Outcome State Fault Refusal := stepOnce s

/-- `s` with an opcode-table row's word presented as the very next stimulus (log 3). -/
def State.withFetchWord (s : State) (nbits w : Nat) : State := presentFirst s nbits w

end Sys2Proof.Machine
end

