-- ==== Sys2Proof/Machine/Script.lean ====
section
/-! DEFINITION. The stimulus script of 30_encoding.md R114 and R115: its lines, the stimuli each stands for, and
the text of a line. DESIGN CHOICE: blanks may stand between any two tokens and nowhere else (log 12); how a number, a
port and a quoted character may be written (log 13); quote marks, letter case, a list of bytes after RX and what is no
line (log 14). -/

namespace Sys2Proof.Machine

/-- The line forms of R114 and the pseudo forms of R115, operands as the line writes them, and `rxList`, the bytes of
an `RX` line that gives several, as vector FD-7 of 95_test_vectors.md writes it (log 14). -/
inductive ScriptLine where
  | acquire (p : Nat)
  | release (p h : Nat)
  | post (p c h len : Nat)
  | recv (p c tmo : Nat)
  | recvForever (p c : Nat)
  | bufRd (p h off : Nat)
  | bufWr (p h off data : Nat)
  | rbGet (p : Nat)
  | rdstat (p reg : Nat)
  | rx (b : Nat)
  | rxText (bs : List Byte)
  | rxList (bs : List Nat)
  | scan (s0 s1 : Nat)
  | scanTimes (n s0 s1 : Nat)
  | tick
  | tickTimes (n : Nat)
  | reset
  deriving DecidableEq, Repr

/-- An operand as a field of `w` bits, if it fits. -/
def operandBits (w n : Nat) : Option (BitVec w) := if n < 2 ^ w then some (BitVec.ofNat w n) else none

/-- A sample of R114: 0 or 1. -/
def sampleBit : Nat → Option Bool
  | 0 => some false
  | 1 => some true
  | _ => none

/-- The stimuli of a line, in order (R114, R115); `none` where an operand does not fit its field. -/
def ScriptLine.stimuli : ScriptLine → Option (List Stimulus)
  | .acquire p => some [encode (.acquire p)]
  | .release p h => do
    let h ← operandBits 8 h
    some [encode (.release p h)]
  | .post p c h len => do
    let c ← operandBits 4 c
    let h ← operandBits 8 h
    let len ← operandBits 16 len
    some [encode (.post p c h len)]
  | .recv p c tmo => do
    let c ← operandBits 4 c
    let tmo ← operandBits 16 tmo
    some [encode (.recv p c tmo)]
  | .recvForever p c => do
    let c ← operandBits 4 c
    some [encode (.recv p c 0#16)]
  | .bufRd p h off => do
    let h ← operandBits 8 h
    let off ← operandBits 12 off
    some [encode (.bufRd p h off)]
  | .bufWr p h off data => do
    let h ← operandBits 8 h
    let off ← operandBits 12 off
    let data ← operandBits 8 data
    some [encode (.bufWr p h off data)]
  | .rbGet p => some [encode (.rbGet p)]
  | .rdstat p reg => do
    let reg ← operandBits 8 reg
    some [encode (.rdstat p reg)]
  | .rx b => do
    let b ← operandBits 8 b
    some [encode (.rxByte b)]
  | .rxText bs => some (bs.map (fun b => encode (.rxByte b)))
  | .rxList bs => do
    let bs ← bs.mapM (operandBits 8)
    some (bs.map (fun b => encode (.rxByte b)))
  | .scan s0 s1 => do
    let a ← sampleBit s0
    let b ← sampleBit s1
    some [encode (.scan a b)]
  | .scanTimes n s0 s1 => do
    let a ← sampleBit s0
    let b ← sampleBit s1
    some (List.replicate n (encode (.scan a b)))
  | .tick => some [encode .tick]
  | .tickTimes n => some (List.replicate n (encode .tick))
  | .reset => some [encode .reset]

/-- The tokens of a line. -/
inductive Token where
  | atom (cs : List Char)
  | quoted (b : Byte)
  | text (bs : List Byte)
  | colon
  | comma
  | lparen
  | rparen
  deriving DecidableEq, Repr

/-- Where the reader of a line stands: between or inside atoms, inside a quoted character, inside a text. -/
inductive LexMode where
  | plain
  | quoted
  | text
  deriving DecidableEq, Repr

/-- A quoted character is its ASCII code (R114). -/
def asciiByte (c : Char) : Option Byte := if c.toNat < 128 then some (BitVec.ofNat 8 c.toNat) else none

/-- The atom read so far (its characters are kept in reverse), if any. -/
def flushAtom : List Char → List Token
  | [] => []
  | c :: cs => [.atom (c :: cs).reverse]

def isAtomChar (c : Char) : Bool := c.isAlphanum || c == '_'

/-- Cut a line into tokens; `none` on a character no form of R114 has or on an unclosed quote. DESIGN CHOICE: R114 and
R115 do not say how a quote mark stands inside quotes; there are no escapes, a quoted character is any one ASCII
character between two apostrophes, an apostrophe too, and a text ends at the first double quote, so it holds none
(log 14). -/
def lexLine : LexMode → List Char → List Char → Option (List Token)
  | .plain, acc, [] => some (flushAtom acc)
  | .quoted, _, [] => none
  | .text, _, [] => none
  | .plain, acc, c :: cs =>
    if isAtomChar c then lexLine .plain (c :: acc) cs
    else if c = ' ' then (lexLine .plain [] cs).map (flushAtom acc ++ ·)
    else if c = ':' then (lexLine .plain [] cs).map (flushAtom acc ++ Token.colon :: ·)
    else if c = ',' then (lexLine .plain [] cs).map (flushAtom acc ++ Token.comma :: ·)
    else if c = '(' then (lexLine .plain [] cs).map (flushAtom acc ++ Token.lparen :: ·)
    else if c = ')' then (lexLine .plain [] cs).map (flushAtom acc ++ Token.rparen :: ·)
    else if c = '\'' then (lexLine .quoted [] cs).map (flushAtom acc ++ ·)
    else if c = '"' then (lexLine .text [] cs).map (flushAtom acc ++ ·)
    else none
  | .quoted, [], c :: cs => lexLine .quoted [c] cs
  | .quoted, x :: _, c :: cs =>
    if c = '\'' then do
      let b ← asciiByte x
      let rest ← lexLine .plain [] cs
      some (.quoted b :: rest)
    else none
  | .text, acc, c :: cs =>
    if c = '"' then do
      let bs ← acc.reverse.mapM asciiByte
      let rest ← lexLine .plain [] cs
      some (.text bs :: rest)
    else lexLine .text (c :: acc) cs

/-- The value of a digit. -/
def digitValue (c : Char) : Option Nat :=
  if '0' ≤ c ∧ c ≤ '9' then some (c.toNat - '0'.toNat)
  else if 'a' ≤ c ∧ c ≤ 'f' then some (c.toNat - 'a'.toNat + 10)
  else if 'A' ≤ c ∧ c ≤ 'F' then some (c.toNat - 'A'.toNat + 10)
  else none

/-- The number the characters stand for in a base, `n` being read so far and `afterDigit` saying whether the
character before was a digit. DESIGN CHOICE: a number of a script line may hold the `_` of 00_scope.md R8, R114 does
not say; one `_` may stand between two digits and nowhere else, so a number ends in a digit (log 13). -/
def digitsValue (base : Nat) : Bool → Nat → List Char → Option Nat
  | afterDigit, n, [] => if afterDigit then some n else none
  | afterDigit, n, c :: cs =>
    if c = '_' then (if afterDigit then digitsValue base false n cs else none)
    else
      match digitValue c with
      | some d => if d < base then digitsValue base true (n * base + d) cs else none
      | none => none

/-- A number is decimal or `0x` hexadecimal (R114). -/
def atomNumber : List Char → Option Nat
  | '0' :: 'x' :: cs => digitsValue 16 false 0 cs
  | cs => digitsValue 10 false 0 cs

/-- A port is `P` and its number (R114). DESIGN CHOICE: the p of `P<p>` is a number as any other, decimal or `0x`
hexadecimal; R114 does not say so of the p (log 13). -/
def atomPort : List Char → Option Nat
  | 'P' :: cs => atomNumber cs
  | _ => none

/-- Operands: numbers separated by commas. DESIGN CHOICE: a quoted character stands only as the byte of `RX`, for
which R114 names it, and is no operand of a command (log 13). -/
def numberList : List Token → Option (List Nat)
  | [] => some []
  | [.atom a] => (atomNumber a).map (fun n => [n])
  | .atom a :: .comma :: t :: rest => do
    let n ← atomNumber a
    let ns ← numberList (t :: rest)
    some (n :: ns)
  | _ => none

/-- The byte of an `RX` line: a number or a quoted character (R114). -/
def tokenByte : Token → Option Nat
  | .atom a => atomNumber a
  | .quoted b => some b.toNat
  | .text _ | .colon | .comma | .lparen | .rparen => none

/-- The bytes of an `RX` line, separated by commas. -/
def byteList : List Token → Option (List Nat)
  | [t] => (tokenByte t).map (fun b => [b])
  | t :: .comma :: u :: rest => do
    let b ← tokenByte t
    let bs ← byteList (u :: rest)
    some (b :: bs)
  | _ => none

/-- A command line's mnemonic and operands (R114, R115). -/
def commandLine (p : Nat) (mnemonic : List Char) (ops : List Nat) : Option ScriptLine :=
  if mnemonic = ['A', 'C', 'Q', 'U', 'I', 'R', 'E'] then
    match ops with | [] => some (.acquire p) | _ => none
  else if mnemonic = ['R', 'E', 'L', 'E', 'A', 'S', 'E'] then
    match ops with | [h] => some (.release p h) | _ => none
  else if mnemonic = ['P', 'O', 'S', 'T'] then
    match ops with | [c, h, len] => some (.post p c h len) | _ => none
  else if mnemonic = ['R', 'E', 'C', 'V'] then
    match ops with | [c, tmo] => some (.recv p c tmo) | [c] => some (.recvForever p c) | _ => none
  else if mnemonic = ['B', 'U', 'F', '_', 'R', 'D'] then
    match ops with | [h, off] => some (.bufRd p h off) | _ => none
  else if mnemonic = ['B', 'U', 'F', '_', 'W', 'R'] then
    match ops with | [h, off, data] => some (.bufWr p h off data) | _ => none
  else if mnemonic = ['R', 'B', '_', 'G', 'E', 'T'] then
    match ops with | [] => some (.rbGet p) | _ => none
  else if mnemonic = ['R', 'D', 'S', 'T', 'A', 'T'] then
    match ops with | [reg] => some (.rdstat p reg) | _ => none
  else none

/-- An event line (R114, R115). DESIGN CHOICE: R114 gives `RX` one byte and R115 a text, yet vector FD-7 of
95_test_vectors.md writes `RX 0x23, 0x00, 0xFF, 0x24`; the model takes such a list, one `RX` line per byte in order
(log 14). -/
def eventLine (name : List Char) (rest : List Token) : Option ScriptLine :=
  if name = ['R', 'X'] then
    match rest with
    | [.text bs] => some (.rxText bs)
    | toks =>
      match byteList toks with
      | some [b] => some (.rx b)
      | some bs => some (.rxList bs)
      | none => none
  else if name = ['S', 'C', 'A', 'N'] then
    match rest with
    | [.atom a, .comma, .atom b] => do
      let s0 ← atomNumber a
      let s1 ← atomNumber b
      some (.scan s0 s1)
    | [.atom n, .atom ['x'], .lparen, .atom a, .comma, .atom b, .rparen] => do
      let n ← atomNumber n
      let s0 ← atomNumber a
      let s1 ← atomNumber b
      some (.scanTimes n s0 s1)
    | _ => none
  else if name = ['T', 'I', 'C', 'K'] then
    match rest with
    | [] => some .tick
    | [.atom n] => (atomNumber n).map .tickTimes
    | _ => none
  else if name = ['R', 'E', 'S', 'E', 'T'] then
    match rest with | [] => some .reset | _ => none
  else none

/-- The line a token list spells. -/
def parseTokens : List Token → Option ScriptLine
  | .atom a :: .colon :: .atom m :: ops =>
    match atomPort a, numberList ops with
    | some p, some ns => commandLine p m ns
    | _, _ => none
  | .atom name :: rest => eventLine name rest
  | _ => none

/-- The stimuli one line of text stands for; `none` where it is no line of R114 or R115. -/
def assembleLine (cs : List Char) : Option (List Stimulus) := do
  let toks ← lexLine .plain [] cs
  let line ← parseTokens toks
  line.stimuli

/-- The stimuli of a script, line after line. -/
def assembleScript : List (List Char) → Option (List Stimulus)
  | [] => some []
  | l :: ls => do
    let a ← assembleLine l
    let rest ← assembleScript ls
    some (a ++ rest)

/-- An environment that follows a script presents its stimuli after those already presented. -/
def State.presentAll (s : State) (sts : List Stimulus) : State := sts.foldl State.present s

end Sys2Proof.Machine
end

