-- ==== Sys2Proof/Safety.lean ====
section
/-! DEFINITION. What counts as a safe run, in the terms claims use: the invariants of 10_state.md R41, and the
predicates that say what a step put out and what it left alone. -/

namespace Sys2Proof.Machine

/-- A port's command state as 10_state.md R37 allows it: a waiting RECV names an existing channel and has a
count 1..65535 or FOREVER. -/
def PortState.inRange (g : Config) : PortState → Bool
  | .idle => true
  | .wait c .forever => decide (c.toNat < g.NCH)
  | .wait c (.ticks n) => decide (c.toNat < g.NCH) && n != 0#16

/-- The invariants of 10_state.md R41 (item 8 holds by the type of the debounce states), with what they rest on:
the parameters are legal (00_scope.md R6), every table has its size, and the ranges of R33 to R38 hold. The
clauses from `record` on are the model's own additions, derived from those rules. -/
structure State.Inv (s : State) : Prop where
  /-- R6 -/
  legal : s.cfg.legal = true
  /-- R34 -/
  ownerSize : s.owner.length = s.cfg.N
  /-- R36 -/
  chSize : s.ch.length = s.cfg.NCH
  /-- R37 -/
  portSize : s.port.length = s.cfg.NPORT
  /-- R41 item 1 -/
  decOwner : ∀ h : Handle, s.ownerOf h = some .dec ↔ (s.decRcv = true ∧ s.decH = some h)
  /-- R41 item 2 -/
  queued : ∀ (h : Handle) (c : ChanId), s.ownerOf h = some (.queued c) ↔ ∃ m ∈ s.chan c, m.h = h
  /-- R41 item 2: no handle in two messages across all channels -/
  distinct : (s.ch.flatten.map Msg.h).Nodup
  /-- R41 item 3 -/
  waitersEmpty : ∀ c : ChanId, (∃ ps ∈ s.port, ps.waitsOn c = true) → s.chan c = []
  /-- R41 item 4 -/
  chanCap : ∀ c : ChanId, (s.chan c).length ≤ s.cfg.depth c
  /-- R41 item 4 -/
  ringCap : s.rbCnt.toNat ≤ s.cfg.C
  /-- R41 item 4 -/
  ringWr : s.rbWr.toNat = (s.rbRd.toNat + s.rbCnt.toNat) % s.cfg.C
  /-- R41 item 5 -/
  decCap : s.decCnt.toNat ≤ s.cfg.S
  /-- R41 item 5 -/
  msgCap : ∀ c : ChanId, ∀ m ∈ s.chan c, m.len.toNat ≤ s.cfg.S
  /-- R41 item 6 -/
  decOff : s.decRcv = false → s.decCnt = 0#13 ∧ s.decH = none
  /-- R41 item 7 -/
  haltedIdle : s.halted = true → ∀ ps ∈ s.port, ps = .idle
  /-- R31, R32: the fatal record is clear exactly while the block is not halted -/
  record : s.halted = false → s.fatalCode = .none ∧ s.fatalPort = 0#4 ∧ s.fatalHandle = 0#8
  /-- R32 -/
  recordHalted : s.halted = true → s.fatalCode ≠ .none
  /-- R33: a receiving decoder has a buffer -/
  decOn : s.decRcv = true → s.decH ≠ none
  /-- R34: a holder is an existing port -/
  heldPort : ∀ (h : Handle) (p : Nat), s.ownerOf h = some (.held p) → p < s.cfg.NPORT
  /-- R37 -/
  waitRange : ∀ ps ∈ s.port, ps.inRange s.cfg = true
  /-- R38 -/
  ringRd : s.rbRd.toNat < s.cfg.C
  /-- The canonical form of pool storage. -/
  poolWf : Memory.wf s.pool
  /-- R80 -/
  poolRange : ∀ x ∈ s.pool, x.1 < poolBytes s.cfg
  /-- The canonical form of ring storage. -/
  ringWf : Memory.wf s.rbStore
  /-- R81 -/
  ringRange : ∀ x ∈ s.rbStore, x.1 < s.cfg.C
  /-- U2: a queued slot has been written, so no unspecified slot is ever read -/
  ringWritten : ∀ k : Nat, k < s.rbCnt.toNat →
    (Memory.read s.rbStore ((s.rbRd.toNat + k) % s.cfg.C)).isSome = true

/-- The response word `w` carries RC, H, CH and VAL in the bits 30_encoding.md R110 gives them. -/
def CarriesFields (w : Word) (rc : BitVec 4) (h : Handle) (c : ChanId) (val : BitVec 16) : Prop :=
  w.extractLsb' 28 4 = rc ∧ w.extractLsb' 20 8 = h ∧ w.extractLsb' 16 4 = c ∧ w.extractLsb' 0 16 = val

/-- What `t` put out after `s` is exactly one response on port `p`, with these fields. -/
def Answered (s t : State) (p : Nat) (rc : BitVec 4) (h : Handle) (c : ChanId) (val : BitVec 16) : Prop :=
  ∃ w, CarriesFields w rc h c val ∧ t.trace = s.trace ++ [.resp p w]

/-- Every byte of pool storage and every ring slot reads as before. -/
def KeepsStorage (s t : State) : Prop :=
  (∀ a, t.poolByte a = s.poolByte a) ∧ ∀ i, t.ringByte i = s.ringByte i

/-- The response word HALTED with every data field 0 (30_encoding.md R110, R111). -/
def haltedWord : Word := 0x60000000#32

/-- The response word TIMEOUT with every data field 0. -/
def timeoutWord : Word := 0x40000000#32

/-- The response word ILLEGAL with every data field 0. -/
def illegalAnswer : Word := 0x50000000#32

/-- `t` is `s` after `raise Fatal(code, p, h)` (60_exceptions.md R285): the record is written, one FATAL event
is followed by one HALTED response on the offending port and on every waiting port and by nothing else, every
port is IDLE, and all other state is as it was. The order of the HALTED responses is left open. -/
def FatalEntered (s t : State) (code : FatalCode) (p : Nat) (h : Handle) : Prop :=
  t = { s with
        halted := true, fatalCode := code, fatalPort := BitVec.ofNat 4 p, fatalHandle := h,
        port := List.replicate s.port.length .idle, trace := t.trace } ∧
    KeepsStorage s t ∧
    ∃ answers : List Output, t.trace = s.trace ++ [.diag .fatal] ++ answers ∧
      (∀ o ∈ answers, ∃ q, o = .resp q haltedWord) ∧
      ∀ q, answers.count (.resp q haltedWord) =
        if q = p ∨ s.port[q]?.any PortState.waiting = true then 1 else 0

/-- A command's port is IDLE, its fields are legal and the block is not halted: its own rule decides the
outcome (60_exceptions.md R290). -/
def Ready (i : Instr) (p : Nat) (s : State) : Prop :=
  s.port[p]? = some .idle ∧ i.fieldsLegal s.cfg = true ∧ s.halted = false

/-- The ring's queued entries, oldest first (10_state.md R38). -/
def State.ringEntries (s : State) : List Byte :=
  (List.range s.rbCnt.toNat).map (fun k => s.ringByte ((s.rbRd.toNat + k) % s.cfg.C))

/-- The diagnostic events of a trace, oldest first (60_exceptions.md R282). -/
def diagsOf : List Output → List DiagCode
  | [] => []
  | .diag d :: rest => d :: diagsOf rest
  | .resp _ _ :: rest => diagsOf rest

/-- The response words given on port `p` in a trace, oldest first. -/
def answersOn (p : Nat) : List Output → List Word
  | [] => []
  | .diag _ :: rest => answersOn p rest
  | .resp q w :: rest => if q = p then w :: answersOn p rest else answersOn p rest

/-- Run a list of instructions one after another, each completing, with nothing interleaved. -/
def execAll : List Instr → State → Host.Outcome State Fault Refusal
  | [], s => .next s
  | i :: is, s =>
    match exec i s with
    | .next t => execAll is t
    | .fault f => .fault f
    | .refused r => .refused r

end Sys2Proof.Machine
end

