-- ==== Sys2Proof/Certificates/Slice0/Obligations.lean ====
section
/-! DEFINITION. The statements for the provers. Each docstring names the rule it formalises. -/

open Sys2Proof Sys2Proof.Machine

/-! ## The words the statements share -/

namespace Sys2Proof.Machine

/-- `h` is the lowest-numbered free handle (41_pool_channel.md R170). -/
def LowestFree (s : State) (h : Handle) : Prop :=
  s.ownerOf h = some .free ∧ ∀ k < h.toNat, s.owner[k]? ≠ some .free

/-- No buffer is free. -/
def NoneFree (s : State) : Prop := ∀ o ∈ s.owner, o ≠ .free

/-- `q` is the lowest-numbered port waiting on channel `c` (41_pool_channel.md R171). -/
def LowestWaiter (s : State) (c : ChanId) (q : Nat) : Prop :=
  (∃ r, s.port[q]? = some (.wait c r)) ∧ ∀ k < q, ∀ r, s.port[k]? ≠ some (.wait c r)

/-- No port waits on channel `c`. -/
def NoWaiter (s : State) (c : ChanId) : Prop := ∀ (q : Nat) (r : Remaining), s.port[q]? ≠ some (.wait c r)

/-- Channel `c` has room: `|ch[c]| < DEPTH[c]`. -/
def HasRoom (s : State) (c : ChanId) : Prop := (s.chan c).length < s.cfg.depth c

/-- `RingPut(EV_i)` as the push of input `i` uses it (42_debounce.md R221, 43_ring_buffer.md R240). -/
def Pushed (i : DbInput) (s t : State) : Prop :=
  (s.rbCnt.toNat ≠ s.cfg.C →
    t = { s.setDb i .idle with
          rbStore := t.rbStore
          rbWr := BitVec.ofNat 16 ((s.rbWr.toNat + 1) % s.cfg.C)
          rbCnt := s.rbCnt + 1#16 } ∧
      t.ringByte s.rbWr.toNat = (match i with | .in0 => s.cfg.EV0 | .in1 => s.cfg.EV1) ∧
      ∀ j, j ≠ s.rbWr.toNat → t.ringByte j = s.ringByte j) ∧
  (s.rbCnt.toNat = s.cfg.C →
    t = { s.setDb i .confirmed with trace := s.trace ++ [.diag .ringFull] })

/-- One sample of one input, by the transitions of 42_debounce.md R221. -/
def DbStepped (i : DbInput) (smp : Bool) (s t : State) : Prop :=
  (s.dbSt i = .idle → smp = true → t = s.setDb i .candidate) ∧
  (s.dbSt i = .idle → smp = false → t = s.setDb i .idle) ∧
  (s.dbSt i = .candidate → smp = true → Pushed i s t) ∧
  (s.dbSt i = .candidate → smp = false → t = s.setDb i .idle) ∧
  (s.dbSt i = .confirmed → Pushed i s t)

/-- Whether a SCAN with sample `smp` has an input in state `st` push its event code (42_debounce.md R221). -/
def pressed (st : DbState) (smp : Bool) : Bool :=
  match st with
  | .idle => false
  | .candidate => smp
  | .confirmed => true

/-- The numbers of `fatal_code` (10_state.md R32, 60_exceptions.md R284). -/
def fatalNumber : FatalCode → Nat
  | .none => 0
  | .doubleRelease => 1
  | .notOwner => 2
  | .secondConsumer => 3

/-- The numbers of a debounce state (10_state.md R39). -/
def dbNumber : DbState → Nat
  | .idle => 0
  | .candidate => 1
  | .confirmed => 2

/-- `v` is the value of status register `reg` by the table of 10_state.md R42. -/
def RegisterReads (s : State) (reg : Byte) (v : BitVec 16) : Prop :=
  (reg = 0x00#8 →
    v.getLsbD 0 = s.halted ∧ v.getLsbD 1 = s.decRcv ∧ v.getLsbD 2 = decide (s.rbCnt.toNat = 0) ∧
      v.getLsbD 3 = decide (s.rbCnt.toNat = s.cfg.C) ∧ (v.extractLsb' 4 4).toNat = fatalNumber s.fatalCode ∧
      v.extractLsb' 8 8 = 0#8) ∧
  (reg = 0x01#8 →
    v.extractLsb' 0 4 = s.fatalPort ∧ v.extractLsb' 4 4 = 0#4 ∧ v.extractLsb' 8 8 = s.fatalHandle) ∧
  (reg = 0x02#8 → v.toNat = s.decCnt.toNat) ∧
  (reg = 0x03#8 →
    (s.decRcv = true → ∀ h, s.decH = some h → v.extractLsb' 0 8 = h) ∧
      (s.decRcv = false → v.extractLsb' 0 8 = 0#8) ∧ v.getLsbD 8 = s.decRcv ∧ v.extractLsb' 9 7 = 0#7) ∧
  (reg = 0x04#8 → v.toNat = s.owner.countP (fun o => o == .free)) ∧
  (reg = 0x05#8 → v = s.rbCnt) ∧
  (reg = 0x06#8 →
    (v.extractLsb' 0 2).toNat = dbNumber s.dbSt0 ∧ (v.extractLsb' 2 2).toNat = dbNumber s.dbSt1 ∧
      v.extractLsb' 4 12 = 0#12) ∧
  (reg = 0x07#8 → ∀ q < 16, v.getLsbD q = (s.port[q]?).any PortState.waiting) ∧
  ∀ c : ChanId, c.toNat < s.cfg.NCH → reg.toNat = 0x10 + c.toNat → v.toNat = (s.chan c).length

/-- Command `i` on port `p` breaks an invariant for which R284 names `code`, and `h` is what the record holds as the
fatal handle (60_exceptions.md R284). -/
def Violates (s : State) (i : Instr) (p : Nat) (code : FatalCode) (h : Handle) : Prop :=
  (i = .release p h ∧ s.ownerOf h = some .free ∧ code = .doubleRelease) ∨
  (i = .release p h ∧ s.ownerOf h ≠ some .free ∧ s.ownerOf h ≠ some (.held p) ∧ code = .notOwner) ∨
  (((∃ c len, i = .post p c h len) ∨ (∃ off, i = .bufRd p h off) ∨ ∃ off data, i = .bufWr p h off data) ∧
    s.ownerOf h ≠ some (.held p) ∧ code = .notOwner) ∨
  (i = .rbGet p ∧ p ≠ s.cfg.RB_CONSUMER ∧ code = .secondConsumer ∧ h = 0#8)

/-- The stimuli of a whole frame: START, the payload, END (40_frame_decoder.md R150). -/
def frameBytes (g : Config) (ds : List Byte) : List Instr :=
  .rxByte g.START :: (ds.map Instr.rxByte ++ [.rxByte g.END])

/-- Message `(h, len)` reached channel 0 or the lowest port waiting on it, and nothing else was put out. -/
def DeliveredTo0 (s t : State) (h : Handle) (len : Nat) : Prop :=
  (∃ q w, LowestWaiter s 0#4 q ∧ t.ownerOf h = some (.held q) ∧ t.port = s.port.set q .idle ∧ t.ch = s.ch ∧
    CarriesFields w 0#4 h 0#4 (BitVec.ofNat 16 len) ∧ t.trace = s.trace ++ [.resp q w]) ∨
  (NoWaiter s 0#4 ∧ t.ownerOf h = some (.queued 0#4) ∧ t.chan 0#4 = s.chan 0#4 ++ [⟨h, BitVec.ofNat 13 len⟩] ∧
    t.port = s.port ∧ t.trace = s.trace)

end Sys2Proof.Machine

/-! ## Encoding -/

/-- Decoding the encoding of any instruction, with any operands, gives it back (30_encoding.md R101 to R106,
R112). -/
def Obligations.DecodeOfEncodeIsTheInstruction : Prop := ∀ i : Instr, decode (encode i) = .instr i

/-- A stimulus that decodes to an instruction is that instruction's encoding: no two stimuli of one agent mean
the same instruction, and no reserved bit is free (30_encoding.md R101 to R108). -/
def Obligations.EncodeOfDecodeIsTheStimulus : Prop :=
  ∀ (st : Stimulus) (i : Instr), decode st = .instr i → encode i = st

/-- R107: every word is exactly one row's command or is rejected; the patterns do not overlap. -/
def Obligations.EveryWordIsOneRowsCommandOrRejected : Prop :=
  ∀ (p : Nat) (w : Word),
    ((∃ r ∈ commandRows, w &&& r.mask = r.bits ∧
        ∀ r' ∈ commandRows, w &&& r'.mask = r'.bits → r' = r) ∧
      ∃ i, decode (.command p w) = .instr i ∧ i.port? = some p) ∨
    ((∀ r ∈ commandRows, w &&& r.mask ≠ r.bits) ∧ ∃ d, decode (.command p w) = .reject p d)

/-- Words written out from the formats of R101 to R105 and payloads of R112 decode to what they stand for. -/
def Obligations.SampleWordsDecode : Prop :=
  decode (.command 1 0x10000000#32) = .instr (.acquire 1) ∧
  decode (.command 0 0x20100000#32) = .instr (.release 0 1#8) ∧
  decode (.command 0 0x30110003#32) = .instr (.post 0 1#4 1#8 3#16) ∧
  decode (.command 0 0x40010005#32) = .instr (.recv 0 1#4 5#16) ∧
  decode (.command 0 0x50000400#32) = .instr (.bufRd 0 0#8 4#12) ∧
  decode (.command 0 0x60100241#32) = .instr (.bufWr 0 1#8 2#12 0x41#8) ∧
  decode (.command 0 0x70000000#32) = .instr (.rbGet 0) ∧
  decode (.command 0 0x80000010#32) = .instr (.rdstat 0 0x10#8) ∧
  decode (.rx 0x23#8) = .instr (.rxByte 0x23#8) ∧
  decode (.scanStrobe 0b10#2) = .instr (.scan false true) ∧
  decode .timeoutTick = .instr .tick ∧
  decode .resetLine = .instr .reset ∧
  decode (.command 0 0x00000000#32) = .reject 0 .opcode ∧
  decode (.command 0 0x70000100#32) = .reject 0 .reservedBits

/-- 20_memory.md R84: a word crosses a byte-wide bus least significant byte first, and comes back whole. -/
def Obligations.BusCarriesWordsLowByteFirst : Prop :=
  ∀ w : Word, busBytesToWord (wordToBusBytes w) = some w ∧
    ∀ k < 4, ((wordToBusBytes w)[k]?.map BitVec.toNat) = some (w.toNat / 256 ^ k % 256)

/-- 30_encoding.md R115: each pseudo form stands for the lines its expansion names. That an empty text and a count of
0 are allowed and stand for no stimulus (the first three clauses) is the model's choice, which R115 does not state
(log 14). -/
def Obligations.PseudoFormsExpand : Prop :=
  (ScriptLine.rxText []).stimuli = some [] ∧ (∀ s0 < 2, ∀ s1 < 2, (ScriptLine.scanTimes 0 s0 s1).stimuli = some []) ∧
  (ScriptLine.tickTimes 0).stimuli = some [] ∧
  (∀ p c, (ScriptLine.recvForever p c).stimuli = (ScriptLine.recv p c 0).stimuli) ∧
  (∀ b bs, (ScriptLine.rxText (b :: bs)).stimuli =
    (do let x ← (ScriptLine.rx b.toNat).stimuli
        let y ← (ScriptLine.rxText bs).stimuli
        some (x ++ y))) ∧
  (∀ n s0 s1, (ScriptLine.scanTimes (n + 1) s0 s1).stimuli =
    (do let x ← (ScriptLine.scan s0 s1).stimuli
        let y ← (ScriptLine.scanTimes n s0 s1).stimuli
        some (x ++ y))) ∧
  ∀ n, (ScriptLine.tickTimes (n + 1)).stimuli =
    (do let x ← ScriptLine.tick.stimuli
        let y ← (ScriptLine.tickTimes n).stimuli
        some (x ++ y))

/-! ## The step -/

/-- The step takes the first presented stimulus the block has a step for and runs the instruction it decodes to,
on the state without it (20_memory.md R89, R91; the list of presented stimuli is the model's, log 2). -/
def Obligations.StepRunsTheDecodedStimulus : Prop :=
  ∀ (s : State) (held after : List Stimulus) (st : Stimulus) (i : Instr),
    s.cfg.legal = true → s.inbox = held ++ st :: after → (∀ x ∈ held, s.canTake x = false) →
    s.canTake st = true → decode st = .instr i →
    step s = exec i { s with inbox := held ++ after }

/-- R108, R281: an illegal word is answered ILLEGAL and changes no state, halted or not. The word is illegal
because no row accepts it or because a field is out of range. -/
def Obligations.IllegalWordIsAnsweredIllegal : Prop :=
  ∀ (s : State) (held after : List Stimulus) (p : Nat) (w : Word),
    s.cfg.legal = true → s.inbox = held ++ .command p w :: after → (∀ x ∈ held, s.canTake x = false) →
    s.port[p]? = some .idle →
    ((∀ r ∈ commandRows, w &&& r.mask ≠ r.bits) ∨
      ∃ i, decode (.command p w) = .instr i ∧ i.fieldsLegal s.cfg = false) →
    ∃ t, step s = .next t ∧ t = { s with inbox := held ++ after, trace := t.trace } ∧
      Answered s t p 5#4 0#8 0#4 0#16 ∧ KeepsStorage s t

/-- 00_scope.md R7: a parameter set outside the ranges of R6 is refused. -/
def Obligations.IllegalParametersAreRefused : Prop :=
  ∀ s : State,
    (s.cfg.START = s.cfg.END ∨ s.cfg.EV0 = s.cfg.EV1 ∨ s.cfg.NPORT ≤ s.cfg.RB_CONSUMER ∨
      s.cfg.N < 1 ∨ 256 < s.cfg.N ∨ s.cfg.S < 1 ∨ 4096 < s.cfg.S ∨ s.cfg.NCH < 1 ∨ 16 < s.cfg.NCH ∨
      s.cfg.DEPTH.length ≠ s.cfg.NCH ∨ (∃ d ∈ s.cfg.DEPTH, d < 1 ∨ 65535 < d) ∨
      s.cfg.C < 1 ∨ 65535 < s.cfg.C ∨ s.cfg.NPORT < 1 ∨ 16 < s.cfg.NPORT) →
    step s = .refused .illegalParameters

/-- With no stimulus the block has a step for, a step leaves it as it is (the model's choice, log 9). -/
def Obligations.NoStimulusNoChange : Prop :=
  ∀ s : State, s.cfg.legal = true → (∀ x ∈ s.inbox, s.canTake x = false) → step s = .next s

/-- 70_reset_and_hazards.md R330: no word of a waiting port is taken, and every one stays presented. -/
def Obligations.WaitingPortsWordsAreHeld : Prop :=
  ∀ (s t : State) (p : Nat) (c : ChanId) (r : Remaining), s.port[p]? = some (.wait c r) → step s = .next t →
    t.inbox.filter (fun x => x.agent == .host p) = s.inbox.filter (fun x => x.agent == .host p)

/-- 20_memory.md R91: each agent's stimuli are taken in the order it presents them, each once. -/
def Obligations.EachAgentsStimuliKeepTheirOrder : Prop :=
  ∀ (s t : State), step s = .next t →
    (t.inbox = s.inbox ∨ t.inbox.length + 1 = s.inbox.length) ∧
    ∀ g : Agent,
      t.inbox.filter (fun x => x.agent == g) = s.inbox.filter (fun x => x.agent == g) ∨
      ∃ x, s.inbox.filter (fun x => x.agent == g) = x :: t.inbox.filter (fun x => x.agent == g)

/-- 00_scope.md R6, 44_status.md R262: the parameters are fixed at build time; no step writes one. -/
def Obligations.ParametersNeverChange : Prop := ∀ s t : State, step s = .next t → t.cfg = s.cfg

/-! ## Reset and invariants -/

/-- R321, R322: the state at power-on is the one RESET gives: not receiving, every buffer free, every channel
empty, every port IDLE, ring empty, both inputs IDLE, not halted. -/
def Obligations.PowerOnState : Prop :=
  State.reset = State.resetWith Config.testVectors ∧
  ∀ g : Config,
    (State.resetWith g).halted = false ∧ (State.resetWith g).fatalCode = .none ∧
    (State.resetWith g).fatalPort = 0#4 ∧ (State.resetWith g).fatalHandle = 0#8 ∧
    (State.resetWith g).decRcv = false ∧ (State.resetWith g).decH = none ∧ (State.resetWith g).decCnt = 0#13 ∧
    (∀ h : Handle, h.toNat < g.N → (State.resetWith g).ownerOf h = some .free) ∧
    (∀ c : ChanId, (State.resetWith g).chan c = []) ∧
    (∀ p < g.NPORT, (State.resetWith g).port[p]? = some .idle) ∧
    (State.resetWith g).rbRd = 0#16 ∧ (State.resetWith g).rbWr = 0#16 ∧ (State.resetWith g).rbCnt = 0#16 ∧
    (State.resetWith g).dbSt0 = .idle ∧ (State.resetWith g).dbSt1 = .idle

/-- R320: RESET is taken in every state; every element goes to its reset value; no response and no event. Storage
is unspecified: the statement says nothing of its bytes. -/
def Obligations.ResetGivesTheResetState : Prop :=
  ∀ s : State, ∃ t, exec .reset s = .next t ∧
    t = { State.resetWith s.cfg with pool := t.pool, rbStore := t.rbStore, trace := t.trace, inbox := t.inbox,
                                     epoch := t.epoch } ∧
    t.trace = s.trace

/-- The reset state of every legal build meets the invariants of 10_state.md R41. -/
def Obligations.ResetMeetsTheInvariant : Prop := ∀ g : Config, g.legal = true → (State.resetWith g).Inv

/-- R41: every step preserves the invariants (with the model's own clauses of State.Inv, which they rest on). -/
def Obligations.EveryStepKeepsTheInvariant : Prop := ∀ s t : State, s.Inv → step s = .next t → t.Inv

/-- From a state that meets the invariants the block always has a step: no fault and no refusal is reachable
(60_exceptions.md R298, 40_frame_decoder.md R148, 42_debounce.md R226). -/
def Obligations.EveryStepCompletes : Prop := ∀ s : State, s.Inv → ∃ t, step s = .next t

/-! ## The order of checks and the halt -/

/-- R109: an out-of-range handle, channel, offset or length is always ILLEGAL and never fatal. -/
def Obligations.OutOfRangeFieldsAreIllegal : Prop :=
  (∀ (i : Instr) (p : Nat) (s : State), i.port? = some p → s.port[p]? = some .idle → i.fieldsLegal s.cfg = false →
    ∃ t, exec i s = .next t ∧ t = { s with trace := t.trace } ∧ Answered s t p 5#4 0#8 0#4 0#16 ∧
      KeepsStorage s t) ∧
  ∀ (g : Config) (p : Nat) (c : ChanId) (h : Handle) (len tmo : BitVec 16) (off : BitVec 12) (data : Byte),
    (g.N ≤ h.toNat → (Instr.release p h).fieldsLegal g = false ∧ (Instr.post p c h len).fieldsLegal g = false ∧
      (Instr.bufRd p h off).fieldsLegal g = false ∧ (Instr.bufWr p h off data).fieldsLegal g = false) ∧
    (g.NCH ≤ c.toNat → (Instr.post p c h len).fieldsLegal g = false ∧ (Instr.recv p c tmo).fieldsLegal g = false) ∧
    (g.S ≤ off.toNat → (Instr.bufRd p h off).fieldsLegal g = false ∧
      (Instr.bufWr p h off data).fieldsLegal g = false) ∧
    (g.S < len.toNat → (Instr.post p c h len).fieldsLegal g = false)

/-- R287: while halted a legal RDSTAT is served, every other legal command is answered HALTED, an illegal one
ILLEGAL, the events have no effect, RESET is taken, and no port is waiting. -/
def Obligations.HaltedBlockServesOnlyStatusReads : Prop :=
  ∀ s : State, s.halted = true →
    (∀ b, exec (.rxByte b) s = .next s) ∧ (∀ s0 s1, exec (.scan s0 s1) s = .next s) ∧ exec .tick s = .next s ∧
    (∃ t, exec .reset s = .next t ∧ t.halted = false) ∧ (s.Inv → ∀ ps ∈ s.port, ps = .idle) ∧
    ∀ (i : Instr) (p : Nat), i.port? = some p → s.port[p]? = some .idle →
      (i.fieldsLegal s.cfg = false →
        ∃ t, exec i s = .next t ∧ t = { s with trace := t.trace } ∧ Answered s t p 5#4 0#8 0#4 0#16) ∧
      (i.fieldsLegal s.cfg = true → (∀ reg, i ≠ .rdstat p reg) →
        ∃ t, exec i s = .next t ∧ t = { s with trace := t.trace } ∧ Answered s t p 6#4 0#8 0#4 0#16) ∧
      (∀ reg, i.fieldsLegal s.cfg = true → i = .rdstat p reg →
        ∃ t v, exec i s = .next t ∧ t = { s with trace := t.trace } ∧ statusReg s reg = some v ∧
          Answered s t p 0#4 0#8 0#4 v)

/-- R284, R285: each violation of R284's table enters the halt with its own code, the issuing port and the handle;
and nothing else does, the decoder, the scanner and TICK in particular. -/
def Obligations.ViolationsAndNothingElseEnterTheHalt : Prop :=
  ∀ (s : State) (i : Instr),
    (∀ p code h, Ready i p s → Violates s i p code h → ∃ t, exec i s = .next t ∧ FatalEntered s t code p h) ∧
    (∀ t, s.halted = false → exec i s = .next t → t.halted = true →
      ∃ p code h, i.port? = some p ∧ Ready i p s ∧ Violates s i p code h ∧ FatalEntered s t code p h)

/-- R286, R284: the block halts only in the step of an offending RELEASE, POST, BUF_RD, BUF_WR or RB_GET, and
that step changes nothing but what fatal entry writes. -/
def Obligations.HaltIsPrecise : Prop :=
  ∀ s t : State, s.halted = false → step s = .next t → t.halted = true →
    ∃ (p : Nat) (w : Word) (rest : List Stimulus) (i : Instr) (code : FatalCode) (h : Handle),
      s.takeNext = some (.command p w, rest) ∧ decode (.command p w) = .instr i ∧
      ((∃ x, i = .release p x) ∨ (∃ c x len, i = .post p c x len) ∨ (∃ x off, i = .bufRd p x off) ∨
        (∃ x off data, i = .bufWr p x off data) ∨ i = .rbGet p) ∧
      code ≠ .none ∧ FatalEntered { s with inbox := rest } t code p h

/-- R288, R289: while halted, every step but RESET leaves everything as it is, the fatal record included, and
adds outputs behind those before it. -/
def Obligations.OnlyResetLeavesTheHalt : Prop :=
  ∀ s t : State, s.halted = true → step s = .next t →
    (∃ rest, s.takeNext = some (.resetLine, rest)) ∨
    ∃ outs, t = { s with trace := s.trace ++ outs, inbox := t.inbox }

/-! ## Pool and channel commands -/

/-- R170, R174: ACQUIRE takes the lowest-numbered free buffer, or answers EXHAUSTED and changes nothing. -/
def Obligations.AcquireTakesTheLowestFreeBuffer : Prop :=
  ∀ (s : State) (p : Nat), Ready (.acquire p) p s →
    (∀ h, LowestFree s h →
      ∃ t, exec (.acquire p) s = .next t ∧
        t = { s with owner := s.owner.set h.toNat (.held p), trace := t.trace } ∧
        Answered s t p 0#4 h 0#4 0#16 ∧ KeepsStorage s t) ∧
    (NoneFree s →
      ∃ t, exec (.acquire p) s = .next t ∧ t = { s with trace := t.trace } ∧
        Answered s t p 1#4 0#8 0#4 0#16 ∧ KeepsStorage s t)

/-- R176: RELEASE by the holder frees the buffer, whose bytes are not cleared; RELEASE of a free buffer halts with
DOUBLE_RELEASE, and of a buffer something else holds with NOT_OWNER. -/
def Obligations.ReleaseFreesTheHoldersBufferOrHalts : Prop :=
  ∀ (s : State) (p : Nat) (h : Handle), Ready (.release p h) p s →
    (s.ownerOf h = some (.held p) →
      ∃ t, exec (.release p h) s = .next t ∧
        t = { s with owner := s.owner.set h.toNat .free, trace := t.trace } ∧
        Answered s t p 0#4 0#8 0#4 0#16 ∧ KeepsStorage s t) ∧
    (s.ownerOf h = some .free →
      ∃ t, exec (.release p h) s = .next t ∧ FatalEntered s t .doubleRelease p h) ∧
    (s.ownerOf h ≠ some .free → s.ownerOf h ≠ some (.held p) →
      ∃ t, exec (.release p h) s = .next t ∧ FatalEntered s t .notOwner p h)

/-- R172, R178: POST by the holder hands the buffer to the lowest waiting port, completing its RECV in the same
step, else appends the message to a channel with room, else answers FULL and changes nothing; POST of a buffer the
port does not hold, a free one included, halts with NOT_OWNER. -/
def Obligations.PostDeliversAnswersFullOrHalts : Prop :=
  ∀ (s : State) (p : Nat) (c : ChanId) (h : Handle) (len : BitVec 16), s.cfg.legal = true →
    Ready (.post p c h len) p s →
    (∀ q, s.ownerOf h = some (.held p) → LowestWaiter s c q →
      ∃ t w w', exec (.post p c h len) s = .next t ∧
        t = { s with owner := s.owner.set h.toNat (.held q), port := s.port.set q .idle, trace := t.trace } ∧
        CarriesFields w 0#4 h c len ∧ CarriesFields w' 0#4 0#8 0#4 0#16 ∧
        t.trace = s.trace ++ [.resp q w, .resp p w'] ∧ KeepsStorage s t) ∧
    (s.ownerOf h = some (.held p) → NoWaiter s c → HasRoom s c →
      ∃ t m, exec (.post p c h len) s = .next t ∧ m.h = h ∧ m.len.toNat = len.toNat ∧
        t = { s with owner := s.owner.set h.toNat (.queued c), ch := s.ch.set c.toNat (s.chan c ++ [m]),
                     trace := t.trace } ∧
        Answered s t p 0#4 0#8 0#4 0#16 ∧ KeepsStorage s t) ∧
    (s.ownerOf h = some (.held p) → NoWaiter s c → ¬ HasRoom s c →
      ∃ t, exec (.post p c h len) s = .next t ∧ t = { s with trace := t.trace } ∧
        Answered s t p 2#4 0#8 0#4 0#16 ∧ KeepsStorage s t) ∧
    (s.ownerOf h ≠ some (.held p) →
      ∃ t, exec (.post p c h len) s = .next t ∧ FatalEntered s t .notOwner p h)

/-- R180: RECV on a channel that holds messages takes the oldest at once, whatever its timeout; on an empty
channel the port waits, for ever if TMO is 0, and no response is given yet. -/
def Obligations.RecvTakesTheOldestOrWaits : Prop :=
  ∀ (s : State) (p : Nat) (c : ChanId) (tmo : BitVec 16), Ready (.recv p c tmo) p s →
    (∀ m rest, s.chan c = m :: rest →
      ∃ t val, exec (.recv p c tmo) s = .next t ∧
        t = { s with ch := s.ch.set c.toNat rest, owner := s.owner.set m.h.toNat (.held p), trace := t.trace } ∧
        val.toNat = m.len.toNat ∧ Answered s t p 0#4 m.h c val ∧ KeepsStorage s t) ∧
    (s.chan c = [] → tmo = 0#16 →
      exec (.recv p c tmo) s = .next { s with port := s.port.set p (.wait c .forever) }) ∧
    (s.chan c = [] → tmo ≠ 0#16 →
      exec (.recv p c tmo) s = .next { s with port := s.port.set p (.wait c (.ticks tmo)) })

/-- R180, its last paragraph: a waiting RECV completes in one of three ways, a message delivered to its channel
(OK), the last TICK of its timeout (TIMEOUT) or the halt (HALTED); RESET abandons it without a response; until then
it waits, its count lowered by each TICK. -/
def Obligations.WaitingRecvEndsInOneOfThreeWays : Prop :=
  ∀ (s t : State) (p : Nat) (c : ChanId) (r : Remaining), s.Inv → s.port[p]? = some (.wait c r) →
    step s = .next t →
    (t.port[p]? = some (.wait c r) ∧ answersOn p t.trace = answersOn p s.trace ∧
      ∀ rest, s.takeNext = some (.timeoutTick, rest) → r = .forever) ∨
    (∃ rest n, s.takeNext = some (.timeoutTick, rest) ∧ r = .ticks n ∧ n ≠ 1#16 ∧
      t.port[p]? = some (.wait c (.ticks (n - 1#16))) ∧ answersOn p t.trace = answersOn p s.trace) ∨
    (∃ st rest w h len, s.takeNext = some (st, rest) ∧ LowestWaiter s c p ∧
      ((∃ q, decode st = .instr (.post q c h len)) ∨
        (st = .rx s.cfg.END ∧ c = 0#4 ∧ s.decH = some h ∧ len.toNat = s.decCnt.toNat)) ∧
      CarriesFields w 0#4 h c len ∧ t.port[p]? = some .idle ∧ t.ownerOf h = some (.held p) ∧
      answersOn p t.trace = answersOn p s.trace ++ [w]) ∨
    (∃ rest, s.takeNext = some (.timeoutTick, rest) ∧ r = .ticks 1#16 ∧ t.port[p]? = some .idle ∧
      answersOn p t.trace = answersOn p s.trace ++ [timeoutWord]) ∨
    (s.halted = false ∧ t.halted = true ∧ t.port[p]? = some .idle ∧
      answersOn p t.trace = answersOn p s.trace ++ [haltedWord]) ∨
    (∃ rest, s.takeNext = some (.resetLine, rest) ∧ t.port[p]? = some .idle ∧
      answersOn p t.trace = answersOn p s.trace)

/-- R182: TICK counts every waiting RECV with a timeout down by one, answers TIMEOUT on the ports whose count was
1, leaves FOREVER and idle ports as they are, and changes nothing else; while halted it has no effect. -/
def Obligations.TickCountsDownEveryTimeout : Prop :=
  (∀ s : State, s.halted = true → exec .tick s = .next s) ∧
  ∀ s : State, s.halted = false →
    ∃ t answers, exec .tick s = .next t ∧ t = { s with port := t.port, trace := s.trace ++ answers } ∧
      t.port.length = s.port.length ∧
      (∀ q : Nat, s.port[q]? = some .idle → t.port[q]? = some .idle) ∧
      (∀ (q : Nat) (c : ChanId), s.port[q]? = some (.wait c .forever) → t.port[q]? = some (.wait c .forever)) ∧
      (∀ (q : Nat) (c : ChanId), s.port[q]? = some (.wait c (.ticks 1#16)) →
        t.port[q]? = some .idle ∧ answers.count (.resp q timeoutWord) = 1) ∧
      (∀ (q : Nat) (c : ChanId) (r : BitVec 16), s.port[q]? = some (.wait c (.ticks r)) → r ≠ 1#16 →
        t.port[q]? = some (.wait c (.ticks (r - 1#16)))) ∧
      (∀ q : Nat, (∀ c, s.port[q]? ≠ some (.wait c (.ticks 1#16))) → answers.count (.resp q timeoutWord) = 0) ∧
      (∀ o ∈ answers, ∃ q, o = .resp q timeoutWord) ∧ KeepsStorage s t

/-- R182: a RECV with TMO = T > 0 that nothing else completes times out in the T-th TICK after it, not earlier. -/
def Obligations.RecvTimesOutAtItsLastTick : Prop :=
  ∀ (s : State) (p : Nat) (c : ChanId) (tmo : BitVec 16), Ready (.recv p c tmo) p s → s.chan c = [] →
    tmo ≠ 0#16 →
    (∀ k < tmo.toNat, ∃ t, execAll (.recv p c tmo :: List.replicate k .tick) s = .next t ∧
      t.port[p]? = some (.wait c (.ticks (tmo - BitVec.ofNat 16 k))) ∧ answersOn p t.trace = answersOn p s.trace) ∧
    ∃ t, execAll (.recv p c tmo :: List.replicate tmo.toNat .tick) s = .next t ∧ t.port[p]? = some .idle ∧
      answersOn p t.trace = answersOn p s.trace ++ [timeoutWord]

/-- R184: BUF_RD by the holder answers the byte at `h * S + off` and changes nothing; by any other port it halts
with NOT_OWNER. -/
def Obligations.BufRdReadsTheHoldersByteOrHalts : Prop :=
  ∀ (s : State) (p : Nat) (h : Handle) (off : BitVec 12), Ready (.bufRd p h off) p s →
    (s.ownerOf h = some (.held p) →
      ∃ t val, exec (.bufRd p h off) s = .next t ∧ t = { s with trace := t.trace } ∧
        val.toNat = (s.poolByte (h.toNat * s.cfg.S + off.toNat)).toNat ∧ Answered s t p 0#4 0#8 0#4 val ∧
        KeepsStorage s t) ∧
    (s.ownerOf h ≠ some (.held p) →
      ∃ t, exec (.bufRd p h off) s = .next t ∧ FatalEntered s t .notOwner p h)

/-- R186: BUF_WR by the holder writes the byte at `h * S + off` and no other; by any other port it halts with
NOT_OWNER and writes nothing. -/
def Obligations.BufWrWritesTheHoldersByteOrHalts : Prop :=
  ∀ (s : State) (p : Nat) (h : Handle) (off : BitVec 12) (data : Byte), Ready (.bufWr p h off data) p s →
    (s.ownerOf h = some (.held p) →
      ∃ t, exec (.bufWr p h off data) s = .next t ∧ t = { s with pool := t.pool, trace := t.trace } ∧
        t.poolByte (h.toNat * s.cfg.S + off.toNat) = data ∧
        (∀ a, a ≠ h.toNat * s.cfg.S + off.toNat → t.poolByte a = s.poolByte a) ∧
        (∀ k, t.ringByte k = s.ringByte k) ∧ Answered s t p 0#4 0#8 0#4 0#16) ∧
    (s.ownerOf h ≠ some (.held p) →
      ∃ t, exec (.bufWr p h off data) s = .next t ∧ FatalEntered s t .notOwner p h)

/-- 20_memory.md R89: a byte a host writes with BUF_WR is what its next BUF_RD of that byte returns, and BUF_RD of
every other byte it holds returns what it did before. -/
def Obligations.BufRdReturnsWhatBufWrWrote : Prop :=
  ∀ (s : State) (p : Nat) (h h' : Handle) (off off' : BitVec 12) (data : Byte), Ready (.bufWr p h off data) p s →
    s.ownerOf h = some (.held p) → Ready (.bufRd p h' off') p s → s.ownerOf h' = some (.held p) →
    ∃ t w, execAll [.bufWr p h off data, .bufRd p h' off'] s = .next t ∧
      answersOn p t.trace = answersOn p s.trace ++ [0x00000000#32, w] ∧
      (h' = h → off' = off → w.toNat = data.toNat) ∧
      (¬ (h' = h ∧ off' = off) → w.toNat = (s.poolByte (h'.toNat * s.cfg.S + off'.toNat)).toNat)

/-! ## Ring buffer and debounce -/

/-- R242: RB_GET on the consumer's port answers EMPTY on an empty ring; else it answers the entry at `rb.rd`,
advances `rb.rd` by one mod C and lowers the count; the slot is not cleared. On any other port it halts with
SECOND_CONSUMER, whatever the ring holds. -/
def Obligations.RbGetTakesTheOldestEntryOrHalts : Prop :=
  ∀ (s : State) (p : Nat), s.cfg.legal = true → Ready (.rbGet p) p s →
    (p = s.cfg.RB_CONSUMER → s.rbCnt = 0#16 →
      ∃ t, exec (.rbGet p) s = .next t ∧ t = { s with trace := t.trace } ∧
        Answered s t p 3#4 0#8 0#4 0#16 ∧ KeepsStorage s t) ∧
    (p = s.cfg.RB_CONSUMER → s.rbCnt ≠ 0#16 →
      ∃ t val, exec (.rbGet p) s = .next t ∧
        t = { s with rbRd := t.rbRd, rbCnt := t.rbCnt, trace := t.trace } ∧
        t.rbRd.toNat = (s.rbRd.toNat + 1) % s.cfg.C ∧ t.rbCnt.toNat + 1 = s.rbCnt.toNat ∧
        val.toNat = (s.ringByte s.rbRd.toNat).toNat ∧ Answered s t p 0#4 0#8 0#4 val ∧
        KeepsStorage s t) ∧
    (p ≠ s.cfg.RB_CONSUMER →
      ∃ t, exec (.rbGet p) s = .next t ∧ FatalEntered s t .secondConsumer p 0#8)

/-- R240, R242, R244, R245: entries leave in the order they were queued: a get takes the first; every SCAN puts the
codes its inputs push behind the last, input 0's first, as far as there is room; on a full ring (C entries) no entry
and no index changes, and a get on an empty ring answers EMPTY. -/
def Obligations.RingIsFirstInFirstOut : Prop :=
  ∀ s : State, s.Inv → s.halted = false →
    (∀ e rest, s.ringEntries = e :: rest → s.port[s.cfg.RB_CONSUMER]? = some .idle →
      ∃ t val, exec (.rbGet s.cfg.RB_CONSUMER) s = .next t ∧ t.ringEntries = rest ∧ val.toNat = e.toNat ∧
        Answered s t s.cfg.RB_CONSUMER 0#4 0#8 0#4 val) ∧
    (s.ringEntries = [] → s.port[s.cfg.RB_CONSUMER]? = some .idle →
      ∃ t, exec (.rbGet s.cfg.RB_CONSUMER) s = .next t ∧ t.ringEntries = [] ∧
        Answered s t s.cfg.RB_CONSUMER 3#4 0#8 0#4 0#16) ∧
    ∀ s0 s1, ∃ t, exec (.scan s0 s1) s = .next t ∧
      t.ringEntries =
        (s.ringEntries ++ (if pressed s.dbSt0 s0 then [s.cfg.EV0] else []) ++
          (if pressed s.dbSt1 s1 then [s.cfg.EV1] else [])).take s.cfg.C ∧
      t.rbRd = s.rbRd ∧
      (s.ringEntries.length = s.cfg.C → t.ringEntries = s.ringEntries ∧ t.rbWr = s.rbWr ∧ t.rbCnt = s.rbCnt)

/-- R220, R221: SCAN advances input 0 by its sample and then input 1 by its own, each by the filter's table; while
halted it has no effect. -/
def Obligations.ScanStepsInput0ThenInput1 : Prop :=
  ∀ (s : State) (s0 s1 : Bool), (s.halted = true → exec (.scan s0 s1) s = .next s) ∧
    (s.halted = false → ∃ m t, exec (.scan s0 s1) s = .next t ∧ DbStepped .in0 s0 s m ∧ DbStepped .in1 s1 m t)

/-- R222: a press the full ring refused stays CONFIRMED and is reported at each refusal; the push is retried
whatever the sample is, until it succeeds and the input returns to IDLE. -/
def Obligations.RefusedPushIsRetried : Prop :=
  ∀ (s : State) (s0 s1 : Bool), s.Inv → s.halted = false →
    ∃ t, exec (.scan s0 s1) s = .next t ∧
      (s.dbSt0 = .confirmed → s.rbCnt.toNat = s.cfg.C →
        t.dbSt0 = .confirmed ∧ t.ringEntries = s.ringEntries ∧
          ∃ ds, diagsOf t.trace = diagsOf s.trace ++ .ringFull :: ds) ∧
      (s.dbSt0 = .confirmed → s.rbCnt.toNat < s.cfg.C →
        t.dbSt0 = .idle ∧ ∃ more, t.ringEntries = s.ringEntries ++ s.cfg.EV0 :: more) ∧
      (s.dbSt1 = .confirmed → s.rbCnt.toNat = s.cfg.C →
        t.dbSt1 = .confirmed ∧ t.ringEntries = s.ringEntries ∧
          ∃ ds, diagsOf t.trace = diagsOf s.trace ++ ds ++ [.ringFull]) ∧
      (s.dbSt1 = .confirmed → s.rbCnt.toNat + 1 < s.cfg.C →
        t.dbSt1 = .idle ∧ ∃ more, t.ringEntries = s.ringEntries ++ more ++ [s.cfg.EV1])

/-- R223: two consecutive asserted samples queue one event; an isolated one queues none. -/
def Obligations.PressNeedsTwoConsecutiveSamples : Prop :=
  ∀ s : State, s.Inv → s.halted = false → s.dbSt0 = .idle → s.dbSt1 = .idle → s.rbCnt.toNat < s.cfg.C →
    (∃ t, execAll [.scan true false, .scan true false] s = .next t ∧
      t.ringEntries = s.ringEntries ++ [s.cfg.EV0] ∧ t.dbSt0 = .idle) ∧
    (∃ t, execAll [.scan true false, .scan false false] s = .next t ∧
      t.ringEntries = s.ringEntries ∧ t.dbSt0 = .idle) ∧
    (∃ t, execAll [.scan false true, .scan false true] s = .next t ∧
      t.ringEntries = s.ringEntries ++ [s.cfg.EV1] ∧ t.dbSt1 = .idle) ∧
    (∃ t, execAll [.scan false true, .scan false false] s = .next t ∧
      t.ringEntries = s.ringEntries ∧ t.dbSt1 = .idle)

/-- R224: an input held asserted from IDLE for k SCANs queues floor(k / 2) events while the ring has room, and the
held input re-arms. -/
def Obligations.HeldInputQueuesEverySecondScan : Prop :=
  ∀ (s : State) (i : DbInput) (k : Nat), s.Inv → s.halted = false → s.dbSt0 = .idle → s.dbSt1 = .idle →
    s.rbCnt.toNat + k / 2 ≤ s.cfg.C →
    ∃ t, execAll (List.replicate k (.scan (i == .in0) (i == .in1))) s = .next t ∧
      t.ringEntries = s.ringEntries ++ List.replicate (k / 2) (eventCode s.cfg i) ∧
      t.dbSt i = (if k % 2 = 0 then .idle else .candidate) ∧ t.trace = s.trace

/-- R225: what input 1 reads does not bear on input 0's state, nor what input 0 reads on input 1's while the ring
has room for both or for neither. -/
def Obligations.InputsAreIndependent : Prop :=
  ∀ (s : State), s.halted = false →
    (∀ s0 s1 s1', ∃ t t', exec (.scan s0 s1) s = .next t ∧ exec (.scan s0 s1') s = .next t' ∧
      t.dbSt0 = t'.dbSt0) ∧
    (s.rbCnt.toNat + 1 < s.cfg.C ∨ s.rbCnt.toNat = s.cfg.C → s.cfg.C ≤ 65535 →
      ∀ s0 s0' s1, ∃ t t', exec (.scan s0 s1) s = .next t ∧ exec (.scan s0' s1) s = .next t' ∧
        t.dbSt1 = t'.dbSt1)

/-- R227, R247: the debounce state is written only by SCAN and RESET, `rb.wr` and the ring's slots only by SCAN
and RESET, `rb.rd` only by RB_GET and RESET. -/
def Obligations.DebounceAndRingHaveOneWriterEach : Prop :=
  ∀ (s t : State) (st : Stimulus) (rest : List Stimulus), s.takeNext = some (st, rest) → step s = .next t →
    st ≠ .resetLine →
    ((∀ ts, st ≠ .scanStrobe ts) →
      t.dbSt0 = s.dbSt0 ∧ t.dbSt1 = s.dbSt1 ∧ t.rbWr = s.rbWr ∧ t.rbStore = s.rbStore) ∧
    ((∀ p, decode st ≠ .instr (.rbGet p)) → t.rbRd = s.rbRd)

/-! ## Status -/

/-- R42, R260: RDSTAT answers the register's value from the state before it, halted or not, and writes nothing. -/
def Obligations.RdstatReadsTheRegisterMap : Prop :=
  ∀ (s : State) (p : Nat) (reg : Byte), s.Inv → s.port[p]? = some .idle →
    (reg.toNat ≤ 0x07 ∨ (0x10 ≤ reg.toNat ∧ reg.toNat < 0x10 + s.cfg.NCH)) →
    ∃ t v, exec (.rdstat p reg) s = .next t ∧ t = { s with trace := t.trace } ∧
      Answered s t p 0#4 0#8 0#4 v ∧ RegisterReads s reg v ∧ KeepsStorage s t

/-- R261: a RDSTAT outside the map is answered ILLEGAL and changes nothing. -/
def Obligations.RegistersOutsideTheMapAreIllegal : Prop :=
  ∀ (s : State) (p : Nat) (reg : Byte), s.cfg.legal = true → s.port[p]? = some .idle →
    ((0x08 ≤ reg.toNat ∧ reg.toNat ≤ 0x0F) ∨ (0x10 + s.cfg.NCH ≤ reg.toNat ∧ reg.toNat < 0x20) ∨
      0x20 ≤ reg.toNat) →
    ∃ t, exec (.rdstat p reg) s = .next t ∧ t = { s with trace := t.trace } ∧
      Answered s t p 5#4 0#8 0#4 0#16 ∧ KeepsStorage s t

/-- 60_exceptions.md R293: the level outputs are these functions of the state. -/
def Obligations.LevelOutputsFollowTheState : Prop :=
  ∀ s : State, (∀ c, s.msgAvail c = true ↔ s.chan c ≠ []) ∧ (s.rbNonempty = true ↔ s.rbCnt ≠ 0#16) ∧
    (s.haltedOut = true ↔ s.halted = true)

/-! ## Frame decoder -/

/-- R141: START while not receiving takes the lowest free buffer and starts a frame, or is dropped with
POOL_EXHAUSTED. -/
def Obligations.StartByteStartsAFrame : Prop :=
  ∀ s : State, s.halted = false → s.decRcv = false →
    (∀ h, LowestFree s h →
      exec (.rxByte s.cfg.START) s =
        .next { s with owner := s.owner.set h.toNat .dec, decRcv := true, decH := some h, decCnt := 0#13 }) ∧
    (NoneFree s →
      exec (.rxByte s.cfg.START) s = .next { s with trace := s.trace ++ [.diag .poolExhausted] })

/-- R142: a byte other than END while receiving with room, START included, is written at the next offset, and no
other byte changes. -/
def Obligations.PayloadByteIsWritten : Prop :=
  ∀ (s : State) (b : Byte) (h : Handle), s.cfg.legal = true → s.halted = false → s.decRcv = true →
    s.decH = some h → h.toNat < s.cfg.N → b ≠ s.cfg.END → s.decCnt.toNat < s.cfg.S →
    ∃ t, exec (.rxByte b) s = .next t ∧ t = { s with pool := t.pool, decCnt := t.decCnt } ∧
      t.decCnt.toNat = s.decCnt.toNat + 1 ∧ t.poolByte (h.toNat * s.cfg.S + s.decCnt.toNat) = b ∧
      ∀ a, a ≠ h.toNat * s.cfg.S + s.decCnt.toNat → t.poolByte a = s.poolByte a

/-- R143: a payload byte past the end of the buffer aborts the frame, frees the buffer, drops the byte and reports
FRAME_OVERFLOW; the bytes already written stay. -/
def Obligations.OverflowAbortsTheFrame : Prop :=
  ∀ (s : State) (b : Byte) (h : Handle), s.halted = false → s.decRcv = true → s.decH = some h →
    b ≠ s.cfg.END → s.decCnt.toNat = s.cfg.S →
    exec (.rxByte b) s =
      .next { s with owner := s.owner.set h.toNat .free, decRcv := false, decH := none, decCnt := 0#13,
                     trace := s.trace ++ [.diag .frameOverflow] }

/-- R144, R172: END while receiving delivers `(dec.h, dec.cnt)` to the lowest port waiting on channel 0, else
to the tail of channel 0, else drops the frame with CHANNEL_FULL and frees the buffer; the decoder is idle. -/
def Obligations.EndByteDeliversOrDropsTheFrame : Prop :=
  ∀ (s : State) (h : Handle), s.cfg.legal = true → s.halted = false → s.decRcv = true → s.decH = some h →
    (∀ q, LowestWaiter s 0#4 q →
      ∃ t w, exec (.rxByte s.cfg.END) s = .next t ∧
        t = { s with owner := s.owner.set h.toNat (.held q), port := s.port.set q .idle, decRcv := false,
                     decH := none, decCnt := 0#13, trace := s.trace ++ [.resp q w] } ∧
        CarriesFields w 0#4 h 0#4 (s.decCnt.setWidth 16)) ∧
    (NoWaiter s 0#4 → HasRoom s 0#4 →
      exec (.rxByte s.cfg.END) s =
        .next { s with owner := s.owner.set h.toNat (.queued 0#4),
                       ch := s.ch.set 0 (s.chan 0#4 ++ [⟨h, s.decCnt⟩]), decRcv := false, decH := none,
                       decCnt := 0#13 }) ∧
    (NoWaiter s 0#4 → ¬ HasRoom s 0#4 →
      exec (.rxByte s.cfg.END) s =
        .next { s with owner := s.owner.set h.toNat .free, decRcv := false, decH := none, decCnt := 0#13,
                       trace := s.trace ++ [.diag .channelFull] })

/-- R145, R146: END while not receiving only reports STRAY_END; any other byte between frames has no effect. -/
def Obligations.BytesBetweenFramesChangeNothing : Prop :=
  ∀ (s : State) (b : Byte), s.cfg.legal = true → s.halted = false → s.decRcv = false → b ≠ s.cfg.START →
    (b = s.cfg.END → exec (.rxByte b) s = .next { s with trace := s.trace ++ [.diag .strayEnd] }) ∧
    (b ≠ s.cfg.END → exec (.rxByte b) s = .next s)

/-- R148, R149: RX_BYTE completes in one step in every state that meets the invariants, halts nothing and makes no
port wait. -/
def Obligations.RxByteAlwaysCompletes : Prop :=
  ∀ (s : State) (b : Byte), s.Inv →
    ∃ t, exec (.rxByte b) s = .next t ∧ t.halted = s.halted ∧
      ∀ p : Nat, s.port[p]? = some .idle → t.port[p]? = some .idle

/-- R150, with nothing interleaved: the frame is delivered, with its bytes, exactly when a buffer is free, it fits
and channel 0 takes it; else the diagnostic of the first condition that fails is emitted and nothing of its length
reaches channel 0 or a port waiting on it. -/
def Obligations.FrameIsDeliveredExactlyWhenItCan : Prop :=
  ∀ (s : State) (ds : List Byte), s.Inv → s.halted = false → s.decRcv = false → (∀ d ∈ ds, d ≠ s.cfg.END) →
    (∀ h, LowestFree s h → ds.length ≤ s.cfg.S → (¬ NoWaiter s 0#4 ∨ HasRoom s 0#4) →
      ∃ t, execAll (frameBytes s.cfg ds) s = .next t ∧ DeliveredTo0 s t h ds.length ∧ t.decRcv = false ∧
        ∀ j d, ds[j]? = some d → t.poolByte (h.toNat * s.cfg.S + j) = d) ∧
    (NoneFree s →
      ∃ t more, execAll (frameBytes s.cfg ds) s = .next t ∧ t.ch = s.ch ∧ t.owner = s.owner ∧ t.port = s.port ∧
        t.trace = s.trace ++ .diag .poolExhausted :: more ∧ ∀ q w, .resp q w ∉ more) ∧
    (∀ h, LowestFree s h → s.cfg.S < ds.length →
      ∃ t more, execAll (frameBytes s.cfg ds) s = .next t ∧
        t.trace = s.trace ++ .diag .frameOverflow :: more ∧ (∀ m ∈ t.chan 0#4, m.len.toNat < ds.length) ∧
        ∀ q w, .resp q w ∈ more → (w.extractLsb' 0 16).toNat < ds.length) ∧
    (∀ h, LowestFree s h → ds.length ≤ s.cfg.S → NoWaiter s 0#4 → ¬ HasRoom s 0#4 →
      ∃ t, execAll (frameBytes s.cfg ds) s = .next t ∧ t.ch = s.ch ∧ t.ownerOf h = some .free ∧
        t.decRcv = false ∧ t.trace = s.trace ++ [.diag .channelFull])

/-! ## Rules about every step -/

/-- R191: a buffer becomes free only by its holder's RELEASE, by the decoder's overflow abort, by a failed frame
completion, or by RESET. -/
def Obligations.BuffersAreFreedOnlyByTheirOwners : Prop :=
  ∀ (s t : State) (h : Handle) (o : Owner), s.Inv → step s = .next t → s.ownerOf h = some o → o ≠ .free →
    t.ownerOf h = some .free →
    ∃ st rest, s.takeNext = some (st, rest) ∧
      ((∃ p, decode st = .instr (.release p h) ∧ o = .held p) ∨
        (∃ b, st = .rx b ∧ o = .dec ∧ b ≠ s.cfg.END ∧ s.decCnt.toNat = s.cfg.S) ∨
        (st = .rx s.cfg.END ∧ o = .dec ∧ NoWaiter s 0#4 ∧ ¬ HasRoom s 0#4) ∨
        st = .resetLine)

/-- 20_memory.md R88: what another agent does, RESET apart, changes neither the holder nor a byte of a buffer a
port holds. -/
def Obligations.HeldBuffersAreIsolated : Prop :=
  ∀ (s t : State) (p : Nat) (h : Handle) (st : Stimulus) (rest : List Stimulus), s.Inv →
    s.takeNext = some (st, rest) → step s = .next t → s.ownerOf h = some (.held p) → st.agent ≠ .host p →
    st ≠ .resetLine →
    t.ownerOf h = some (.held p) ∧
      ∀ off < s.cfg.S, t.poolByte (h.toNat * s.cfg.S + off) = s.poolByte (h.toNat * s.cfg.S + off)

/-- 20_memory.md R82, 41_pool_channel.md R188, R189: a channel changes only by one message appended by a POST to it
or, channel 0, by a frame completion, while it holds fewer than DEPTH; by its oldest message going to a RECV on
it; or by RESET. -/
def Obligations.ChannelsAreBoundedFifos : Prop :=
  ∀ (s t : State) (c : ChanId) (st : Stimulus) (rest : List Stimulus), s.Inv → s.takeNext = some (st, rest) →
    step s = .next t →
    t.chan c = s.chan c ∨
    ((∃ m, t.chan c = s.chan c ++ [m]) ∧ HasRoom s c ∧
      ((∃ p h len, decode st = .instr (.post p c h len)) ∨ (st = .rx s.cfg.END ∧ c = 0#4))) ∨
    (∃ m p tmo val, s.chan c = m :: t.chan c ∧ decode st = .instr (.recv p c tmo) ∧
      val.toNat = m.len.toNat ∧ Answered s t p 0#4 m.h c val) ∨
    (st = .resetLine ∧ t.chan c = [])

/-- 30_encoding.md R110: a command is answered exactly once on its port in its own step, but for a RECV that finds
its channel empty, which is not answered and leaves its port waiting. -/
def Obligations.EveryCommandIsAnsweredOnce : Prop :=
  ∀ (i : Instr) (p : Nat) (s t : State), i.port? = some p → exec i s = .next t →
    (∃ w, answersOn p t.trace = answersOn p s.trace ++ [w] ∧ t.port[p]? = some .idle) ∨
    (∃ c tmo r, i = .recv p c tmo ∧ s.chan c = [] ∧ answersOn p t.trace = answersOn p s.trace ∧
      t.port[p]? = some (.wait c r))

/-- 60_exceptions.md R291: RX_BYTE emits at most one diagnostic event, SCAN at most two, both RING_FULL; a command
emits none unless it halts the block, and then one FATAL; TICK and RESET emit none. -/
def Obligations.DiagnosticsOfOneStep : Prop :=
  ∀ (i : Instr) (s t : State), exec i s = .next t →
    ∃ ds, diagsOf t.trace = diagsOf s.trace ++ ds ∧
      (∀ b, i = .rxByte b → ds.length ≤ 1) ∧
      (∀ s0 s1, i = .scan s0 s1 → ∃ n ≤ 2, ds = List.replicate n .ringFull) ∧
      (i = .tick ∨ i = .reset → ds = []) ∧
      (∀ p, i.port? = some p → (s.halted = t.halted ∧ ds = []) ∨ (t.halted = true ∧ ds = [.fatal]))

/-- 60_exceptions.md R283: the numbers of the diagnostic codes; 10_state.md R32, R39, 60_exceptions.md R284: those of
the fatal codes and the debounce states. -/
def Obligations.CodesHaveTheirNumbers : Prop :=
  (DiagCode.poolExhausted.bits.toNat = 1 ∧ DiagCode.channelFull.bits.toNat = 2 ∧
    DiagCode.frameOverflow.bits.toNat = 3 ∧ DiagCode.strayEnd.bits.toNat = 4 ∧ DiagCode.ringFull.bits.toNat = 5 ∧
    DiagCode.fatal.bits.toNat = 15) ∧
  (∀ d : DiagCode, d.bits.toNat ≠ 0 ∧ ¬ (6 ≤ d.bits.toNat ∧ d.bits.toNat ≤ 14)) ∧
  (∀ f : FatalCode, f.bits.toNat = fatalNumber f) ∧ ∀ d : DbState, d.bits.toNat = dbNumber d
end

