-- ==== Sys2Proof/Laws/Memory.lean ====
section
/-! SUPPORT. Reads, writes and the canonical form of stored bytes. -/

namespace Sys2Proof.Machine

@[simp] theorem Memory.read_nil (a : Nat) : Memory.read [] a = none := rfl

@[simp] theorem Memory.wf_nil : Memory.wf [] := List.Pairwise.nil

/-- A read after a write to the same address gives the byte written. -/
@[simp] theorem Memory.read_write_same (m : Memory) (a : Nat) (b : Byte) :
    Memory.read (Memory.write m a b) a = some b := by
  induction m with
  | nil => simp [Memory.write, Memory.read]
  | cons x m ih =>
    obtain ⟨k, v⟩ := x
    rcases Nat.lt_trichotomy a k with h | h | h
    · simp [Memory.write, Memory.read, h]
    · simp [Memory.write, Memory.read, h]
    · have h1 : ¬ a < k := by omega
      have h2 : a ≠ k := by omega
      simp [Memory.write, Memory.read, h1, h2, h2.symm, ih]

/-- A write leaves every other address alone. -/
theorem Memory.read_write_other (m : Memory) {a a' : Nat} (b : Byte) (h : a' ≠ a) :
    Memory.read (Memory.write m a b) a' = Memory.read m a' := by
  induction m with
  | nil => simp [Memory.write, Memory.read, h.symm]
  | cons x m ih =>
    obtain ⟨k, v⟩ := x
    unfold Memory.write
    split
    · simp [Memory.read, h.symm]
    · split
      · next h1 => subst h1; simp [Memory.read, h.symm]
      · simp only [Memory.read, ih]

/-- The addresses a write leaves listed: the written one and those listed before. -/
theorem Memory.mem_write (m : Memory) (a : Nat) (b : Byte) {x : Host.Cell} (hx : x ∈ Memory.write m a b) :
    x.1 = a ∨ x ∈ m := by
  induction m with
  | nil => simp [Memory.write] at hx; exact .inl (by rw [hx])
  | cons y m ih =>
    obtain ⟨k, v⟩ := y
    unfold Memory.write at hx
    split at hx
    · rcases List.mem_cons.mp hx with h | h
      · exact .inl (by rw [h])
      · exact .inr h
    · split at hx
      · rcases List.mem_cons.mp hx with h | h
        · exact .inl (by rw [h])
        · exact .inr (List.mem_cons_of_mem _ h)
      · rcases List.mem_cons.mp hx with h | h
        · exact .inr (by rw [h]; exact List.mem_cons_self)
        · exact (ih h).imp id (List.mem_cons_of_mem _)

/-- A write keeps the canonical form. -/
theorem Memory.write_wf {m : Memory} (a : Nat) (b : Byte) (h : Memory.wf m) : Memory.wf (Memory.write m a b) := by
  induction m with
  | nil => exact List.pairwise_singleton _ _
  | cons y m ih =>
    obtain ⟨k, v⟩ := y
    have hk : ∀ x ∈ m, k < x.1 := (List.pairwise_cons.mp h).1
    have hm : Memory.wf m := (List.pairwise_cons.mp h).2
    unfold Memory.write
    split
    · next h1 =>
      refine List.pairwise_cons.mpr ⟨fun x hx => ?_, h⟩
      rcases List.mem_cons.mp hx with e | e
      · rw [e]; exact h1
      · exact Nat.lt_trans h1 (hk x e)
    · split
      · next h1 => subst h1; exact List.pairwise_cons.mpr ⟨hk, hm⟩
      · refine List.pairwise_cons.mpr ⟨fun x hx => ?_, ih hm⟩
        rcases Memory.mem_write m a b hx with e | e
        · show k < x.1
          omega
        · exact hk x e

/-- A listed byte is what a read gives. -/
theorem Memory.read_isSome_iff (m : Memory) (a : Nat) : (Memory.read m a).isSome = true ↔ ∃ x ∈ m, x.1 = a := by
  induction m with
  | nil => simp
  | cons y m ih =>
    obtain ⟨k, v⟩ := y
    unfold Memory.read
    split
    · next h => simp [h]
    · next h => simp [ih, h]

/-- Below every listed address a read finds nothing. -/
theorem Memory.read_none_of_lt {m : Memory} {a : Nat} (h : ∀ x ∈ m, a < x.1) : Memory.read m a = none := by
  cases hr : Memory.read m a with
  | none => rfl
  | some v =>
    obtain ⟨x, hx, e⟩ := (Memory.read_isSome_iff m a).mp (by rw [hr]; rfl)
    have := h x hx
    omega

/-- Two canonical memories that read the same at every address are the same data. -/
theorem Memory.ext_of_read {m n : Memory} (hm : Memory.wf m) (hn : Memory.wf n)
    (h : ∀ a, Memory.read m a = Memory.read n a) : m = n := by
  induction m generalizing n with
  | nil =>
    cases n with
    | nil => rfl
    | cons y n => have := h y.1; simp [Memory.read] at this
  | cons x m ih =>
    cases n with
    | nil => have := h x.1; simp [Memory.read] at this
    | cons y n =>
      obtain ⟨k, v⟩ := x
      obtain ⟨l, w⟩ := y
      have hkm : ∀ z ∈ m, k < z.1 := (List.pairwise_cons.mp hm).1
      have hln : ∀ z ∈ n, l < z.1 := (List.pairwise_cons.mp hn).1
      have hkl : k = l := by
        rcases Nat.lt_trichotomy k l with c | c | c
        · have := h k
          rw [Memory.read_none_of_lt (m := (l, w) :: n) (a := k)] at this
          · simp [Memory.read] at this
          · intro z hz
            rcases List.mem_cons.mp hz with e | e
            · rw [e]; exact c
            · exact Nat.lt_trans c (hln z e)
        · exact c
        · have := h l
          rw [Memory.read_none_of_lt (m := (k, v) :: m) (a := l)] at this
          · simp [Memory.read] at this
          · intro z hz
            rcases List.mem_cons.mp hz with e | e
            · rw [e]; exact c
            · exact Nat.lt_trans c (hkm z e)
      subst hkl
      have hv : v = w := by have := h k; simpa [Memory.read] using this
      subst hv
      refine congrArg _ (ih (List.pairwise_cons.mp hm).2 (List.pairwise_cons.mp hn).2 fun a => ?_)
      by_cases ha : k = a
      · subst ha; rw [Memory.read_none_of_lt hkm, Memory.read_none_of_lt hln]
      · have := h a; simpa [Memory.read, ha] using this

/-- What a pool write does, once: it exists exactly for an address of the pool, changes that byte and no other,
and no other field (20_memory.md R80). -/
theorem State.memWrite_spec {s t : State} {a : Nat} {v : Byte} (h : s.memWrite a v = some t) :
    a < poolBytes s.cfg ∧ t = { s with pool := Memory.write s.pool a v } ∧ t.poolByte a = v ∧
      ∀ a', a' ≠ a → t.poolByte a' = s.poolByte a' := by
  unfold State.memWrite at h
  split at h
  · next hlt =>
    cases h
    refine ⟨hlt, rfl, by simp [State.poolByte], fun a' ha => ?_⟩
    simp [State.poolByte, Memory.read_write_other s.pool v ha]
  · cases h

/-- An address of the pool can be written. -/
theorem State.memWrite_some {s : State} {a : Nat} (v : Byte) (h : a < poolBytes s.cfg) :
    s.memWrite a v = some { s with pool := Memory.write s.pool a v } := by
  simp [State.memWrite, h]

/-- An address of the pool can be read. -/
theorem State.memRead_some {s : State} {a : Nat} (h : a < poolBytes s.cfg) : s.memRead a = some (s.poolByte a) := by
  simp [State.memRead, h]

end Sys2Proof.Machine
end

