-- ==== Sys2Proof/Laws/State.lean ====
section
/-! SUPPORT. The field lemmas of the state's updates: what each shared update writes, and that it writes nothing
else. -/

namespace Sys2Proof.Machine

@[simp] theorem State.emit_cfg (s : State) (o : Output) : (s.emit o).cfg = s.cfg := rfl
@[simp] theorem State.emit_halted (s : State) (o : Output) : (s.emit o).halted = s.halted := rfl
@[simp] theorem State.emit_fatalCode (s : State) (o : Output) : (s.emit o).fatalCode = s.fatalCode := rfl
@[simp] theorem State.emit_fatalPort (s : State) (o : Output) : (s.emit o).fatalPort = s.fatalPort := rfl
@[simp] theorem State.emit_fatalHandle (s : State) (o : Output) : (s.emit o).fatalHandle = s.fatalHandle := rfl
@[simp] theorem State.emit_decRcv (s : State) (o : Output) : (s.emit o).decRcv = s.decRcv := rfl
@[simp] theorem State.emit_decH (s : State) (o : Output) : (s.emit o).decH = s.decH := rfl
@[simp] theorem State.emit_decCnt (s : State) (o : Output) : (s.emit o).decCnt = s.decCnt := rfl
@[simp] theorem State.emit_owner (s : State) (o : Output) : (s.emit o).owner = s.owner := rfl
@[simp] theorem State.emit_pool (s : State) (o : Output) : (s.emit o).pool = s.pool := rfl
@[simp] theorem State.emit_ch (s : State) (o : Output) : (s.emit o).ch = s.ch := rfl
@[simp] theorem State.emit_port (s : State) (o : Output) : (s.emit o).port = s.port := rfl
@[simp] theorem State.emit_rbStore (s : State) (o : Output) : (s.emit o).rbStore = s.rbStore := rfl
@[simp] theorem State.emit_rbRd (s : State) (o : Output) : (s.emit o).rbRd = s.rbRd := rfl
@[simp] theorem State.emit_rbWr (s : State) (o : Output) : (s.emit o).rbWr = s.rbWr := rfl
@[simp] theorem State.emit_rbCnt (s : State) (o : Output) : (s.emit o).rbCnt = s.rbCnt := rfl
@[simp] theorem State.emit_dbSt0 (s : State) (o : Output) : (s.emit o).dbSt0 = s.dbSt0 := rfl
@[simp] theorem State.emit_dbSt1 (s : State) (o : Output) : (s.emit o).dbSt1 = s.dbSt1 := rfl
@[simp] theorem State.emit_trace (s : State) (o : Output) : (s.emit o).trace = s.trace ++ [o] := rfl
@[simp] theorem State.emit_inbox (s : State) (o : Output) : (s.emit o).inbox = s.inbox := rfl
@[simp] theorem State.emit_epoch (s : State) (o : Output) : (s.emit o).epoch = s.epoch := rfl

@[simp] theorem State.diag_cfg (s : State) (d : DiagCode) : (s.diag d).cfg = s.cfg := rfl
@[simp] theorem State.diag_halted (s : State) (d : DiagCode) : (s.diag d).halted = s.halted := rfl
@[simp] theorem State.diag_fatalCode (s : State) (d : DiagCode) : (s.diag d).fatalCode = s.fatalCode := rfl
@[simp] theorem State.diag_fatalPort (s : State) (d : DiagCode) : (s.diag d).fatalPort = s.fatalPort := rfl
@[simp] theorem State.diag_fatalHandle (s : State) (d : DiagCode) : (s.diag d).fatalHandle = s.fatalHandle := rfl
@[simp] theorem State.diag_decRcv (s : State) (d : DiagCode) : (s.diag d).decRcv = s.decRcv := rfl
@[simp] theorem State.diag_decH (s : State) (d : DiagCode) : (s.diag d).decH = s.decH := rfl
@[simp] theorem State.diag_decCnt (s : State) (d : DiagCode) : (s.diag d).decCnt = s.decCnt := rfl
@[simp] theorem State.diag_owner (s : State) (d : DiagCode) : (s.diag d).owner = s.owner := rfl
@[simp] theorem State.diag_pool (s : State) (d : DiagCode) : (s.diag d).pool = s.pool := rfl
@[simp] theorem State.diag_ch (s : State) (d : DiagCode) : (s.diag d).ch = s.ch := rfl
@[simp] theorem State.diag_port (s : State) (d : DiagCode) : (s.diag d).port = s.port := rfl
@[simp] theorem State.diag_rbStore (s : State) (d : DiagCode) : (s.diag d).rbStore = s.rbStore := rfl
@[simp] theorem State.diag_rbRd (s : State) (d : DiagCode) : (s.diag d).rbRd = s.rbRd := rfl
@[simp] theorem State.diag_rbWr (s : State) (d : DiagCode) : (s.diag d).rbWr = s.rbWr := rfl
@[simp] theorem State.diag_rbCnt (s : State) (d : DiagCode) : (s.diag d).rbCnt = s.rbCnt := rfl
@[simp] theorem State.diag_dbSt0 (s : State) (d : DiagCode) : (s.diag d).dbSt0 = s.dbSt0 := rfl
@[simp] theorem State.diag_dbSt1 (s : State) (d : DiagCode) : (s.diag d).dbSt1 = s.dbSt1 := rfl
@[simp] theorem State.diag_trace (s : State) (d : DiagCode) : (s.diag d).trace = s.trace ++ [.diag d] := rfl
@[simp] theorem State.diag_inbox (s : State) (d : DiagCode) : (s.diag d).inbox = s.inbox := rfl
@[simp] theorem State.diag_epoch (s : State) (d : DiagCode) : (s.diag d).epoch = s.epoch := rfl

@[simp] theorem State.setPort_cfg (s : State) (p : Nat) (ps : PortState) : (s.setPort p ps).cfg = s.cfg := rfl
@[simp] theorem State.setPort_halted (s : State) (p : Nat) (ps : PortState) : (s.setPort p ps).halted = s.halted := rfl
@[simp] theorem State.setPort_fatalCode (s : State) (p : Nat) (ps : PortState) : (s.setPort p ps).fatalCode = s.fatalCode := rfl
@[simp] theorem State.setPort_fatalPort (s : State) (p : Nat) (ps : PortState) : (s.setPort p ps).fatalPort = s.fatalPort := rfl
@[simp] theorem State.setPort_fatalHandle (s : State) (p : Nat) (ps : PortState) : (s.setPort p ps).fatalHandle = s.fatalHandle := rfl
@[simp] theorem State.setPort_decRcv (s : State) (p : Nat) (ps : PortState) : (s.setPort p ps).decRcv = s.decRcv := rfl
@[simp] theorem State.setPort_decH (s : State) (p : Nat) (ps : PortState) : (s.setPort p ps).decH = s.decH := rfl
@[simp] theorem State.setPort_decCnt (s : State) (p : Nat) (ps : PortState) : (s.setPort p ps).decCnt = s.decCnt := rfl
@[simp] theorem State.setPort_owner (s : State) (p : Nat) (ps : PortState) : (s.setPort p ps).owner = s.owner := rfl
@[simp] theorem State.setPort_pool (s : State) (p : Nat) (ps : PortState) : (s.setPort p ps).pool = s.pool := rfl
@[simp] theorem State.setPort_ch (s : State) (p : Nat) (ps : PortState) : (s.setPort p ps).ch = s.ch := rfl
@[simp] theorem State.setPort_port (s : State) (p : Nat) (ps : PortState) : (s.setPort p ps).port = s.port.set p ps := rfl
@[simp] theorem State.setPort_rbStore (s : State) (p : Nat) (ps : PortState) : (s.setPort p ps).rbStore = s.rbStore := rfl
@[simp] theorem State.setPort_rbRd (s : State) (p : Nat) (ps : PortState) : (s.setPort p ps).rbRd = s.rbRd := rfl
@[simp] theorem State.setPort_rbWr (s : State) (p : Nat) (ps : PortState) : (s.setPort p ps).rbWr = s.rbWr := rfl
@[simp] theorem State.setPort_rbCnt (s : State) (p : Nat) (ps : PortState) : (s.setPort p ps).rbCnt = s.rbCnt := rfl
@[simp] theorem State.setPort_dbSt0 (s : State) (p : Nat) (ps : PortState) : (s.setPort p ps).dbSt0 = s.dbSt0 := rfl
@[simp] theorem State.setPort_dbSt1 (s : State) (p : Nat) (ps : PortState) : (s.setPort p ps).dbSt1 = s.dbSt1 := rfl
@[simp] theorem State.setPort_trace (s : State) (p : Nat) (ps : PortState) : (s.setPort p ps).trace = s.trace := rfl
@[simp] theorem State.setPort_inbox (s : State) (p : Nat) (ps : PortState) : (s.setPort p ps).inbox = s.inbox := rfl
@[simp] theorem State.setPort_epoch (s : State) (p : Nat) (ps : PortState) : (s.setPort p ps).epoch = s.epoch := rfl

@[simp] theorem State.setOwner_cfg (s : State) (h : Handle) (o : Owner) : (s.setOwner h o).cfg = s.cfg := rfl
@[simp] theorem State.setOwner_halted (s : State) (h : Handle) (o : Owner) : (s.setOwner h o).halted = s.halted := rfl
@[simp] theorem State.setOwner_fatalCode (s : State) (h : Handle) (o : Owner) : (s.setOwner h o).fatalCode = s.fatalCode := rfl
@[simp] theorem State.setOwner_fatalPort (s : State) (h : Handle) (o : Owner) : (s.setOwner h o).fatalPort = s.fatalPort := rfl
@[simp] theorem State.setOwner_fatalHandle (s : State) (h : Handle) (o : Owner) : (s.setOwner h o).fatalHandle = s.fatalHandle := rfl
@[simp] theorem State.setOwner_decRcv (s : State) (h : Handle) (o : Owner) : (s.setOwner h o).decRcv = s.decRcv := rfl
@[simp] theorem State.setOwner_decH (s : State) (h : Handle) (o : Owner) : (s.setOwner h o).decH = s.decH := rfl
@[simp] theorem State.setOwner_decCnt (s : State) (h : Handle) (o : Owner) : (s.setOwner h o).decCnt = s.decCnt := rfl
@[simp] theorem State.setOwner_owner (s : State) (h : Handle) (o : Owner) : (s.setOwner h o).owner = s.owner.set h.toNat o := rfl
@[simp] theorem State.setOwner_pool (s : State) (h : Handle) (o : Owner) : (s.setOwner h o).pool = s.pool := rfl
@[simp] theorem State.setOwner_ch (s : State) (h : Handle) (o : Owner) : (s.setOwner h o).ch = s.ch := rfl
@[simp] theorem State.setOwner_port (s : State) (h : Handle) (o : Owner) : (s.setOwner h o).port = s.port := rfl
@[simp] theorem State.setOwner_rbStore (s : State) (h : Handle) (o : Owner) : (s.setOwner h o).rbStore = s.rbStore := rfl
@[simp] theorem State.setOwner_rbRd (s : State) (h : Handle) (o : Owner) : (s.setOwner h o).rbRd = s.rbRd := rfl
@[simp] theorem State.setOwner_rbWr (s : State) (h : Handle) (o : Owner) : (s.setOwner h o).rbWr = s.rbWr := rfl
@[simp] theorem State.setOwner_rbCnt (s : State) (h : Handle) (o : Owner) : (s.setOwner h o).rbCnt = s.rbCnt := rfl
@[simp] theorem State.setOwner_dbSt0 (s : State) (h : Handle) (o : Owner) : (s.setOwner h o).dbSt0 = s.dbSt0 := rfl
@[simp] theorem State.setOwner_dbSt1 (s : State) (h : Handle) (o : Owner) : (s.setOwner h o).dbSt1 = s.dbSt1 := rfl
@[simp] theorem State.setOwner_trace (s : State) (h : Handle) (o : Owner) : (s.setOwner h o).trace = s.trace := rfl
@[simp] theorem State.setOwner_inbox (s : State) (h : Handle) (o : Owner) : (s.setOwner h o).inbox = s.inbox := rfl
@[simp] theorem State.setOwner_epoch (s : State) (h : Handle) (o : Owner) : (s.setOwner h o).epoch = s.epoch := rfl

@[simp] theorem State.setChan_cfg (s : State) (c : ChanId) (ms : List Msg) : (s.setChan c ms).cfg = s.cfg := rfl
@[simp] theorem State.setChan_halted (s : State) (c : ChanId) (ms : List Msg) : (s.setChan c ms).halted = s.halted := rfl
@[simp] theorem State.setChan_fatalCode (s : State) (c : ChanId) (ms : List Msg) : (s.setChan c ms).fatalCode = s.fatalCode := rfl
@[simp] theorem State.setChan_fatalPort (s : State) (c : ChanId) (ms : List Msg) : (s.setChan c ms).fatalPort = s.fatalPort := rfl
@[simp] theorem State.setChan_fatalHandle (s : State) (c : ChanId) (ms : List Msg) : (s.setChan c ms).fatalHandle = s.fatalHandle := rfl
@[simp] theorem State.setChan_decRcv (s : State) (c : ChanId) (ms : List Msg) : (s.setChan c ms).decRcv = s.decRcv := rfl
@[simp] theorem State.setChan_decH (s : State) (c : ChanId) (ms : List Msg) : (s.setChan c ms).decH = s.decH := rfl
@[simp] theorem State.setChan_decCnt (s : State) (c : ChanId) (ms : List Msg) : (s.setChan c ms).decCnt = s.decCnt := rfl
@[simp] theorem State.setChan_owner (s : State) (c : ChanId) (ms : List Msg) : (s.setChan c ms).owner = s.owner := rfl
@[simp] theorem State.setChan_pool (s : State) (c : ChanId) (ms : List Msg) : (s.setChan c ms).pool = s.pool := rfl
@[simp] theorem State.setChan_ch (s : State) (c : ChanId) (ms : List Msg) : (s.setChan c ms).ch = s.ch.set c.toNat ms := rfl
@[simp] theorem State.setChan_port (s : State) (c : ChanId) (ms : List Msg) : (s.setChan c ms).port = s.port := rfl
@[simp] theorem State.setChan_rbStore (s : State) (c : ChanId) (ms : List Msg) : (s.setChan c ms).rbStore = s.rbStore := rfl
@[simp] theorem State.setChan_rbRd (s : State) (c : ChanId) (ms : List Msg) : (s.setChan c ms).rbRd = s.rbRd := rfl
@[simp] theorem State.setChan_rbWr (s : State) (c : ChanId) (ms : List Msg) : (s.setChan c ms).rbWr = s.rbWr := rfl
@[simp] theorem State.setChan_rbCnt (s : State) (c : ChanId) (ms : List Msg) : (s.setChan c ms).rbCnt = s.rbCnt := rfl
@[simp] theorem State.setChan_dbSt0 (s : State) (c : ChanId) (ms : List Msg) : (s.setChan c ms).dbSt0 = s.dbSt0 := rfl
@[simp] theorem State.setChan_dbSt1 (s : State) (c : ChanId) (ms : List Msg) : (s.setChan c ms).dbSt1 = s.dbSt1 := rfl
@[simp] theorem State.setChan_trace (s : State) (c : ChanId) (ms : List Msg) : (s.setChan c ms).trace = s.trace := rfl
@[simp] theorem State.setChan_inbox (s : State) (c : ChanId) (ms : List Msg) : (s.setChan c ms).inbox = s.inbox := rfl
@[simp] theorem State.setChan_epoch (s : State) (c : ChanId) (ms : List Msg) : (s.setChan c ms).epoch = s.epoch := rfl

@[simp] theorem State.respond_cfg (s : State) (p : Nat) (rc : Rc) (h : Handle) (c : ChanId) (v : BitVec 16) : (s.respond p rc h c v).cfg = s.cfg := rfl
@[simp] theorem State.respond_halted (s : State) (p : Nat) (rc : Rc) (h : Handle) (c : ChanId) (v : BitVec 16) : (s.respond p rc h c v).halted = s.halted := rfl
@[simp] theorem State.respond_fatalCode (s : State) (p : Nat) (rc : Rc) (h : Handle) (c : ChanId) (v : BitVec 16) : (s.respond p rc h c v).fatalCode = s.fatalCode := rfl
@[simp] theorem State.respond_fatalPort (s : State) (p : Nat) (rc : Rc) (h : Handle) (c : ChanId) (v : BitVec 16) : (s.respond p rc h c v).fatalPort = s.fatalPort := rfl
@[simp] theorem State.respond_fatalHandle (s : State) (p : Nat) (rc : Rc) (h : Handle) (c : ChanId) (v : BitVec 16) : (s.respond p rc h c v).fatalHandle = s.fatalHandle := rfl
@[simp] theorem State.respond_decRcv (s : State) (p : Nat) (rc : Rc) (h : Handle) (c : ChanId) (v : BitVec 16) : (s.respond p rc h c v).decRcv = s.decRcv := rfl
@[simp] theorem State.respond_decH (s : State) (p : Nat) (rc : Rc) (h : Handle) (c : ChanId) (v : BitVec 16) : (s.respond p rc h c v).decH = s.decH := rfl
@[simp] theorem State.respond_decCnt (s : State) (p : Nat) (rc : Rc) (h : Handle) (c : ChanId) (v : BitVec 16) : (s.respond p rc h c v).decCnt = s.decCnt := rfl
@[simp] theorem State.respond_owner (s : State) (p : Nat) (rc : Rc) (h : Handle) (c : ChanId) (v : BitVec 16) : (s.respond p rc h c v).owner = s.owner := rfl
@[simp] theorem State.respond_pool (s : State) (p : Nat) (rc : Rc) (h : Handle) (c : ChanId) (v : BitVec 16) : (s.respond p rc h c v).pool = s.pool := rfl
@[simp] theorem State.respond_ch (s : State) (p : Nat) (rc : Rc) (h : Handle) (c : ChanId) (v : BitVec 16) : (s.respond p rc h c v).ch = s.ch := rfl
@[simp] theorem State.respond_port (s : State) (p : Nat) (rc : Rc) (h : Handle) (c : ChanId) (v : BitVec 16) : (s.respond p rc h c v).port = s.port.set p .idle := rfl
@[simp] theorem State.respond_rbStore (s : State) (p : Nat) (rc : Rc) (h : Handle) (c : ChanId) (v : BitVec 16) : (s.respond p rc h c v).rbStore = s.rbStore := rfl
@[simp] theorem State.respond_rbRd (s : State) (p : Nat) (rc : Rc) (h : Handle) (c : ChanId) (v : BitVec 16) : (s.respond p rc h c v).rbRd = s.rbRd := rfl
@[simp] theorem State.respond_rbWr (s : State) (p : Nat) (rc : Rc) (h : Handle) (c : ChanId) (v : BitVec 16) : (s.respond p rc h c v).rbWr = s.rbWr := rfl
@[simp] theorem State.respond_rbCnt (s : State) (p : Nat) (rc : Rc) (h : Handle) (c : ChanId) (v : BitVec 16) : (s.respond p rc h c v).rbCnt = s.rbCnt := rfl
@[simp] theorem State.respond_dbSt0 (s : State) (p : Nat) (rc : Rc) (h : Handle) (c : ChanId) (v : BitVec 16) : (s.respond p rc h c v).dbSt0 = s.dbSt0 := rfl
@[simp] theorem State.respond_dbSt1 (s : State) (p : Nat) (rc : Rc) (h : Handle) (c : ChanId) (v : BitVec 16) : (s.respond p rc h c v).dbSt1 = s.dbSt1 := rfl
@[simp] theorem State.respond_trace (s : State) (p : Nat) (rc : Rc) (h : Handle) (c : ChanId) (v : BitVec 16) : (s.respond p rc h c v).trace = s.trace ++ [.resp p (responseWord rc h c v)] := rfl
@[simp] theorem State.respond_inbox (s : State) (p : Nat) (rc : Rc) (h : Handle) (c : ChanId) (v : BitVec 16) : (s.respond p rc h c v).inbox = s.inbox := rfl
@[simp] theorem State.respond_epoch (s : State) (p : Nat) (rc : Rc) (h : Handle) (c : ChanId) (v : BitVec 16) : (s.respond p rc h c v).epoch = s.epoch := rfl

@[simp] theorem State.answer_cfg (s : State) (p : Nat) (rc : Rc) : (s.answer p rc).cfg = s.cfg := rfl
@[simp] theorem State.answer_halted (s : State) (p : Nat) (rc : Rc) : (s.answer p rc).halted = s.halted := rfl
@[simp] theorem State.answer_fatalCode (s : State) (p : Nat) (rc : Rc) : (s.answer p rc).fatalCode = s.fatalCode := rfl
@[simp] theorem State.answer_fatalPort (s : State) (p : Nat) (rc : Rc) : (s.answer p rc).fatalPort = s.fatalPort := rfl
@[simp] theorem State.answer_fatalHandle (s : State) (p : Nat) (rc : Rc) : (s.answer p rc).fatalHandle = s.fatalHandle := rfl
@[simp] theorem State.answer_decRcv (s : State) (p : Nat) (rc : Rc) : (s.answer p rc).decRcv = s.decRcv := rfl
@[simp] theorem State.answer_decH (s : State) (p : Nat) (rc : Rc) : (s.answer p rc).decH = s.decH := rfl
@[simp] theorem State.answer_decCnt (s : State) (p : Nat) (rc : Rc) : (s.answer p rc).decCnt = s.decCnt := rfl
@[simp] theorem State.answer_owner (s : State) (p : Nat) (rc : Rc) : (s.answer p rc).owner = s.owner := rfl
@[simp] theorem State.answer_pool (s : State) (p : Nat) (rc : Rc) : (s.answer p rc).pool = s.pool := rfl
@[simp] theorem State.answer_ch (s : State) (p : Nat) (rc : Rc) : (s.answer p rc).ch = s.ch := rfl
@[simp] theorem State.answer_port (s : State) (p : Nat) (rc : Rc) : (s.answer p rc).port = s.port.set p .idle := rfl
@[simp] theorem State.answer_rbStore (s : State) (p : Nat) (rc : Rc) : (s.answer p rc).rbStore = s.rbStore := rfl
@[simp] theorem State.answer_rbRd (s : State) (p : Nat) (rc : Rc) : (s.answer p rc).rbRd = s.rbRd := rfl
@[simp] theorem State.answer_rbWr (s : State) (p : Nat) (rc : Rc) : (s.answer p rc).rbWr = s.rbWr := rfl
@[simp] theorem State.answer_rbCnt (s : State) (p : Nat) (rc : Rc) : (s.answer p rc).rbCnt = s.rbCnt := rfl
@[simp] theorem State.answer_dbSt0 (s : State) (p : Nat) (rc : Rc) : (s.answer p rc).dbSt0 = s.dbSt0 := rfl
@[simp] theorem State.answer_dbSt1 (s : State) (p : Nat) (rc : Rc) : (s.answer p rc).dbSt1 = s.dbSt1 := rfl
@[simp] theorem State.answer_trace (s : State) (p : Nat) (rc : Rc) : (s.answer p rc).trace = s.trace ++ [.resp p (responseWord rc 0#8 0#4 0#16)] := rfl
@[simp] theorem State.answer_inbox (s : State) (p : Nat) (rc : Rc) : (s.answer p rc).inbox = s.inbox := rfl
@[simp] theorem State.answer_epoch (s : State) (p : Nat) (rc : Rc) : (s.answer p rc).epoch = s.epoch := rfl

@[simp] theorem State.decIdle_cfg (s : State) : (s.decIdle).cfg = s.cfg := rfl
@[simp] theorem State.decIdle_halted (s : State) : (s.decIdle).halted = s.halted := rfl
@[simp] theorem State.decIdle_fatalCode (s : State) : (s.decIdle).fatalCode = s.fatalCode := rfl
@[simp] theorem State.decIdle_fatalPort (s : State) : (s.decIdle).fatalPort = s.fatalPort := rfl
@[simp] theorem State.decIdle_fatalHandle (s : State) : (s.decIdle).fatalHandle = s.fatalHandle := rfl
@[simp] theorem State.decIdle_decRcv (s : State) : (s.decIdle).decRcv = false := rfl
@[simp] theorem State.decIdle_decH (s : State) : (s.decIdle).decH = none := rfl
@[simp] theorem State.decIdle_decCnt (s : State) : (s.decIdle).decCnt = 0#13 := rfl
@[simp] theorem State.decIdle_owner (s : State) : (s.decIdle).owner = s.owner := rfl
@[simp] theorem State.decIdle_pool (s : State) : (s.decIdle).pool = s.pool := rfl
@[simp] theorem State.decIdle_ch (s : State) : (s.decIdle).ch = s.ch := rfl
@[simp] theorem State.decIdle_port (s : State) : (s.decIdle).port = s.port := rfl
@[simp] theorem State.decIdle_rbStore (s : State) : (s.decIdle).rbStore = s.rbStore := rfl
@[simp] theorem State.decIdle_rbRd (s : State) : (s.decIdle).rbRd = s.rbRd := rfl
@[simp] theorem State.decIdle_rbWr (s : State) : (s.decIdle).rbWr = s.rbWr := rfl
@[simp] theorem State.decIdle_rbCnt (s : State) : (s.decIdle).rbCnt = s.rbCnt := rfl
@[simp] theorem State.decIdle_dbSt0 (s : State) : (s.decIdle).dbSt0 = s.dbSt0 := rfl
@[simp] theorem State.decIdle_dbSt1 (s : State) : (s.decIdle).dbSt1 = s.dbSt1 := rfl
@[simp] theorem State.decIdle_trace (s : State) : (s.decIdle).trace = s.trace := rfl
@[simp] theorem State.decIdle_inbox (s : State) : (s.decIdle).inbox = s.inbox := rfl
@[simp] theorem State.decIdle_epoch (s : State) : (s.decIdle).epoch = s.epoch := rfl

@[simp] theorem State.setDb_cfg (s : State) (i : DbInput) (d : DbState) : (s.setDb i d).cfg = s.cfg := by cases i <;> rfl
@[simp] theorem State.setDb_halted (s : State) (i : DbInput) (d : DbState) : (s.setDb i d).halted = s.halted := by cases i <;> rfl
@[simp] theorem State.setDb_fatalCode (s : State) (i : DbInput) (d : DbState) : (s.setDb i d).fatalCode = s.fatalCode := by cases i <;> rfl
@[simp] theorem State.setDb_fatalPort (s : State) (i : DbInput) (d : DbState) : (s.setDb i d).fatalPort = s.fatalPort := by cases i <;> rfl
@[simp] theorem State.setDb_fatalHandle (s : State) (i : DbInput) (d : DbState) : (s.setDb i d).fatalHandle = s.fatalHandle := by cases i <;> rfl
@[simp] theorem State.setDb_decRcv (s : State) (i : DbInput) (d : DbState) : (s.setDb i d).decRcv = s.decRcv := by cases i <;> rfl
@[simp] theorem State.setDb_decH (s : State) (i : DbInput) (d : DbState) : (s.setDb i d).decH = s.decH := by cases i <;> rfl
@[simp] theorem State.setDb_decCnt (s : State) (i : DbInput) (d : DbState) : (s.setDb i d).decCnt = s.decCnt := by cases i <;> rfl
@[simp] theorem State.setDb_owner (s : State) (i : DbInput) (d : DbState) : (s.setDb i d).owner = s.owner := by cases i <;> rfl
@[simp] theorem State.setDb_pool (s : State) (i : DbInput) (d : DbState) : (s.setDb i d).pool = s.pool := by cases i <;> rfl
@[simp] theorem State.setDb_ch (s : State) (i : DbInput) (d : DbState) : (s.setDb i d).ch = s.ch := by cases i <;> rfl
@[simp] theorem State.setDb_port (s : State) (i : DbInput) (d : DbState) : (s.setDb i d).port = s.port := by cases i <;> rfl
@[simp] theorem State.setDb_rbStore (s : State) (i : DbInput) (d : DbState) : (s.setDb i d).rbStore = s.rbStore := by cases i <;> rfl
@[simp] theorem State.setDb_rbRd (s : State) (i : DbInput) (d : DbState) : (s.setDb i d).rbRd = s.rbRd := by cases i <;> rfl
@[simp] theorem State.setDb_rbWr (s : State) (i : DbInput) (d : DbState) : (s.setDb i d).rbWr = s.rbWr := by cases i <;> rfl
@[simp] theorem State.setDb_rbCnt (s : State) (i : DbInput) (d : DbState) : (s.setDb i d).rbCnt = s.rbCnt := by cases i <;> rfl
@[simp] theorem State.setDb_dbSt0 (s : State) (i : DbInput) (d : DbState) : (s.setDb i d).dbSt0 = if i = .in0 then d else s.dbSt0 := by cases i <;> rfl
@[simp] theorem State.setDb_dbSt1 (s : State) (i : DbInput) (d : DbState) : (s.setDb i d).dbSt1 = if i = .in1 then d else s.dbSt1 := by cases i <;> rfl
@[simp] theorem State.setDb_trace (s : State) (i : DbInput) (d : DbState) : (s.setDb i d).trace = s.trace := by cases i <;> rfl
@[simp] theorem State.setDb_inbox (s : State) (i : DbInput) (d : DbState) : (s.setDb i d).inbox = s.inbox := by cases i <;> rfl
@[simp] theorem State.setDb_epoch (s : State) (i : DbInput) (d : DbState) : (s.setDb i d).epoch = s.epoch := by cases i <;> rfl

@[simp] theorem State.recordFatal_cfg (s : State) (code : FatalCode) (p : Nat) (h : Handle) : (s.recordFatal code p h).cfg = s.cfg := rfl
@[simp] theorem State.recordFatal_halted (s : State) (code : FatalCode) (p : Nat) (h : Handle) : (s.recordFatal code p h).halted = true := rfl
@[simp] theorem State.recordFatal_fatalCode (s : State) (code : FatalCode) (p : Nat) (h : Handle) : (s.recordFatal code p h).fatalCode = code := rfl
@[simp] theorem State.recordFatal_fatalPort (s : State) (code : FatalCode) (p : Nat) (h : Handle) : (s.recordFatal code p h).fatalPort = BitVec.ofNat 4 p := rfl
@[simp] theorem State.recordFatal_fatalHandle (s : State) (code : FatalCode) (p : Nat) (h : Handle) : (s.recordFatal code p h).fatalHandle = h := rfl
@[simp] theorem State.recordFatal_decRcv (s : State) (code : FatalCode) (p : Nat) (h : Handle) : (s.recordFatal code p h).decRcv = s.decRcv := rfl
@[simp] theorem State.recordFatal_decH (s : State) (code : FatalCode) (p : Nat) (h : Handle) : (s.recordFatal code p h).decH = s.decH := rfl
@[simp] theorem State.recordFatal_decCnt (s : State) (code : FatalCode) (p : Nat) (h : Handle) : (s.recordFatal code p h).decCnt = s.decCnt := rfl
@[simp] theorem State.recordFatal_owner (s : State) (code : FatalCode) (p : Nat) (h : Handle) : (s.recordFatal code p h).owner = s.owner := rfl
@[simp] theorem State.recordFatal_pool (s : State) (code : FatalCode) (p : Nat) (h : Handle) : (s.recordFatal code p h).pool = s.pool := rfl
@[simp] theorem State.recordFatal_ch (s : State) (code : FatalCode) (p : Nat) (h : Handle) : (s.recordFatal code p h).ch = s.ch := rfl
@[simp] theorem State.recordFatal_port (s : State) (code : FatalCode) (p : Nat) (h : Handle) : (s.recordFatal code p h).port = s.port := rfl
@[simp] theorem State.recordFatal_rbStore (s : State) (code : FatalCode) (p : Nat) (h : Handle) : (s.recordFatal code p h).rbStore = s.rbStore := rfl
@[simp] theorem State.recordFatal_rbRd (s : State) (code : FatalCode) (p : Nat) (h : Handle) : (s.recordFatal code p h).rbRd = s.rbRd := rfl
@[simp] theorem State.recordFatal_rbWr (s : State) (code : FatalCode) (p : Nat) (h : Handle) : (s.recordFatal code p h).rbWr = s.rbWr := rfl
@[simp] theorem State.recordFatal_rbCnt (s : State) (code : FatalCode) (p : Nat) (h : Handle) : (s.recordFatal code p h).rbCnt = s.rbCnt := rfl
@[simp] theorem State.recordFatal_dbSt0 (s : State) (code : FatalCode) (p : Nat) (h : Handle) : (s.recordFatal code p h).dbSt0 = s.dbSt0 := rfl
@[simp] theorem State.recordFatal_dbSt1 (s : State) (code : FatalCode) (p : Nat) (h : Handle) : (s.recordFatal code p h).dbSt1 = s.dbSt1 := rfl
@[simp] theorem State.recordFatal_trace (s : State) (code : FatalCode) (p : Nat) (h : Handle) : (s.recordFatal code p h).trace = s.trace := rfl
@[simp] theorem State.recordFatal_inbox (s : State) (code : FatalCode) (p : Nat) (h : Handle) : (s.recordFatal code p h).inbox = s.inbox := rfl
@[simp] theorem State.recordFatal_epoch (s : State) (code : FatalCode) (p : Nat) (h : Handle) : (s.recordFatal code p h).epoch = s.epoch := rfl

@[simp] theorem State.sweepPorts_cfg (s : State) (f : PortState → PortState × Option Rc) : (s.sweepPorts f).cfg = s.cfg := rfl
@[simp] theorem State.sweepPorts_halted (s : State) (f : PortState → PortState × Option Rc) : (s.sweepPorts f).halted = s.halted := rfl
@[simp] theorem State.sweepPorts_fatalCode (s : State) (f : PortState → PortState × Option Rc) : (s.sweepPorts f).fatalCode = s.fatalCode := rfl
@[simp] theorem State.sweepPorts_fatalPort (s : State) (f : PortState → PortState × Option Rc) : (s.sweepPorts f).fatalPort = s.fatalPort := rfl
@[simp] theorem State.sweepPorts_fatalHandle (s : State) (f : PortState → PortState × Option Rc) : (s.sweepPorts f).fatalHandle = s.fatalHandle := rfl
@[simp] theorem State.sweepPorts_decRcv (s : State) (f : PortState → PortState × Option Rc) : (s.sweepPorts f).decRcv = s.decRcv := rfl
@[simp] theorem State.sweepPorts_decH (s : State) (f : PortState → PortState × Option Rc) : (s.sweepPorts f).decH = s.decH := rfl
@[simp] theorem State.sweepPorts_decCnt (s : State) (f : PortState → PortState × Option Rc) : (s.sweepPorts f).decCnt = s.decCnt := rfl
@[simp] theorem State.sweepPorts_owner (s : State) (f : PortState → PortState × Option Rc) : (s.sweepPorts f).owner = s.owner := rfl
@[simp] theorem State.sweepPorts_pool (s : State) (f : PortState → PortState × Option Rc) : (s.sweepPorts f).pool = s.pool := rfl
@[simp] theorem State.sweepPorts_ch (s : State) (f : PortState → PortState × Option Rc) : (s.sweepPorts f).ch = s.ch := rfl
@[simp] theorem State.sweepPorts_port (s : State) (f : PortState → PortState × Option Rc) : (s.sweepPorts f).port = s.port.map (fun ps => (f ps).1) := rfl
@[simp] theorem State.sweepPorts_rbStore (s : State) (f : PortState → PortState × Option Rc) : (s.sweepPorts f).rbStore = s.rbStore := rfl
@[simp] theorem State.sweepPorts_rbRd (s : State) (f : PortState → PortState × Option Rc) : (s.sweepPorts f).rbRd = s.rbRd := rfl
@[simp] theorem State.sweepPorts_rbWr (s : State) (f : PortState → PortState × Option Rc) : (s.sweepPorts f).rbWr = s.rbWr := rfl
@[simp] theorem State.sweepPorts_rbCnt (s : State) (f : PortState → PortState × Option Rc) : (s.sweepPorts f).rbCnt = s.rbCnt := rfl
@[simp] theorem State.sweepPorts_dbSt0 (s : State) (f : PortState → PortState × Option Rc) : (s.sweepPorts f).dbSt0 = s.dbSt0 := rfl
@[simp] theorem State.sweepPorts_dbSt1 (s : State) (f : PortState → PortState × Option Rc) : (s.sweepPorts f).dbSt1 = s.dbSt1 := rfl
@[simp] theorem State.sweepPorts_trace (s : State) (f : PortState → PortState × Option Rc) : (s.sweepPorts f).trace = s.trace ++ sweepAnswers f 0 s.port := rfl
@[simp] theorem State.sweepPorts_inbox (s : State) (f : PortState → PortState × Option Rc) : (s.sweepPorts f).inbox = s.inbox := rfl
@[simp] theorem State.sweepPorts_epoch (s : State) (f : PortState → PortState × Option Rc) : (s.sweepPorts f).epoch = s.epoch := rfl

@[simp] theorem takeFatal_cfg (code : FatalCode) (p : Nat) (h : Handle) (s : State) : (takeFatal code p h s).cfg = s.cfg := rfl
@[simp] theorem takeFatal_halted (code : FatalCode) (p : Nat) (h : Handle) (s : State) : (takeFatal code p h s).halted = true := rfl
@[simp] theorem takeFatal_fatalCode (code : FatalCode) (p : Nat) (h : Handle) (s : State) : (takeFatal code p h s).fatalCode = code := rfl
@[simp] theorem takeFatal_fatalPort (code : FatalCode) (p : Nat) (h : Handle) (s : State) : (takeFatal code p h s).fatalPort = BitVec.ofNat 4 p := rfl
@[simp] theorem takeFatal_fatalHandle (code : FatalCode) (p : Nat) (h : Handle) (s : State) : (takeFatal code p h s).fatalHandle = h := rfl
@[simp] theorem takeFatal_decRcv (code : FatalCode) (p : Nat) (h : Handle) (s : State) : (takeFatal code p h s).decRcv = s.decRcv := rfl
@[simp] theorem takeFatal_decH (code : FatalCode) (p : Nat) (h : Handle) (s : State) : (takeFatal code p h s).decH = s.decH := rfl
@[simp] theorem takeFatal_decCnt (code : FatalCode) (p : Nat) (h : Handle) (s : State) : (takeFatal code p h s).decCnt = s.decCnt := rfl
@[simp] theorem takeFatal_owner (code : FatalCode) (p : Nat) (h : Handle) (s : State) : (takeFatal code p h s).owner = s.owner := rfl
@[simp] theorem takeFatal_pool (code : FatalCode) (p : Nat) (h : Handle) (s : State) : (takeFatal code p h s).pool = s.pool := rfl
@[simp] theorem takeFatal_ch (code : FatalCode) (p : Nat) (h : Handle) (s : State) : (takeFatal code p h s).ch = s.ch := rfl
@[simp] theorem takeFatal_port (code : FatalCode) (p : Nat) (h : Handle) (s : State) : (takeFatal code p h s).port = (s.port.map (fun ps => (haltPort ps).1)).set p .idle := rfl
@[simp] theorem takeFatal_rbStore (code : FatalCode) (p : Nat) (h : Handle) (s : State) : (takeFatal code p h s).rbStore = s.rbStore := rfl
@[simp] theorem takeFatal_rbRd (code : FatalCode) (p : Nat) (h : Handle) (s : State) : (takeFatal code p h s).rbRd = s.rbRd := rfl
@[simp] theorem takeFatal_rbWr (code : FatalCode) (p : Nat) (h : Handle) (s : State) : (takeFatal code p h s).rbWr = s.rbWr := rfl
@[simp] theorem takeFatal_rbCnt (code : FatalCode) (p : Nat) (h : Handle) (s : State) : (takeFatal code p h s).rbCnt = s.rbCnt := rfl
@[simp] theorem takeFatal_dbSt0 (code : FatalCode) (p : Nat) (h : Handle) (s : State) : (takeFatal code p h s).dbSt0 = s.dbSt0 := rfl
@[simp] theorem takeFatal_dbSt1 (code : FatalCode) (p : Nat) (h : Handle) (s : State) : (takeFatal code p h s).dbSt1 = s.dbSt1 := rfl
@[simp] theorem takeFatal_trace (code : FatalCode) (p : Nat) (h : Handle) (s : State) : (takeFatal code p h s).trace = s.trace ++ [.diag .fatal] ++ sweepAnswers haltPort 0 s.port ++ [.resp p (responseWord .halted 0#8 0#4 0#16)] := rfl
@[simp] theorem takeFatal_inbox (code : FatalCode) (p : Nat) (h : Handle) (s : State) : (takeFatal code p h s).inbox = s.inbox := rfl
@[simp] theorem takeFatal_epoch (code : FatalCode) (p : Nat) (h : Handle) (s : State) : (takeFatal code p h s).epoch = s.epoch := rfl

@[simp] theorem resetBlock_cfg (s : State) : (resetBlock s).cfg = s.cfg := rfl
@[simp] theorem resetBlock_halted (s : State) : (resetBlock s).halted = false := rfl
@[simp] theorem resetBlock_fatalCode (s : State) : (resetBlock s).fatalCode = .none := rfl
@[simp] theorem resetBlock_fatalPort (s : State) : (resetBlock s).fatalPort = 0#4 := rfl
@[simp] theorem resetBlock_fatalHandle (s : State) : (resetBlock s).fatalHandle = 0#8 := rfl
@[simp] theorem resetBlock_decRcv (s : State) : (resetBlock s).decRcv = false := rfl
@[simp] theorem resetBlock_decH (s : State) : (resetBlock s).decH = none := rfl
@[simp] theorem resetBlock_decCnt (s : State) : (resetBlock s).decCnt = 0#13 := rfl
@[simp] theorem resetBlock_owner (s : State) : (resetBlock s).owner = List.replicate s.cfg.N .free := rfl
@[simp] theorem resetBlock_pool (s : State) : (resetBlock s).pool = [] := rfl
@[simp] theorem resetBlock_ch (s : State) : (resetBlock s).ch = List.replicate s.cfg.NCH [] := rfl
@[simp] theorem resetBlock_port (s : State) : (resetBlock s).port = List.replicate s.cfg.NPORT .idle := rfl
@[simp] theorem resetBlock_rbStore (s : State) : (resetBlock s).rbStore = [] := rfl
@[simp] theorem resetBlock_rbRd (s : State) : (resetBlock s).rbRd = 0#16 := rfl
@[simp] theorem resetBlock_rbWr (s : State) : (resetBlock s).rbWr = 0#16 := rfl
@[simp] theorem resetBlock_rbCnt (s : State) : (resetBlock s).rbCnt = 0#16 := rfl
@[simp] theorem resetBlock_dbSt0 (s : State) : (resetBlock s).dbSt0 = .idle := rfl
@[simp] theorem resetBlock_dbSt1 (s : State) : (resetBlock s).dbSt1 = .idle := rfl
@[simp] theorem resetBlock_trace (s : State) : (resetBlock s).trace = s.trace := rfl
@[simp] theorem resetBlock_inbox (s : State) : (resetBlock s).inbox = s.inbox := rfl
@[simp] theorem resetBlock_epoch (s : State) : (resetBlock s).epoch = s.epoch + 1 := rfl

@[simp] theorem State.present_cfg (s : State) (st : Stimulus) : (s.present st).cfg = s.cfg := rfl
@[simp] theorem State.present_halted (s : State) (st : Stimulus) : (s.present st).halted = s.halted := rfl
@[simp] theorem State.present_fatalCode (s : State) (st : Stimulus) : (s.present st).fatalCode = s.fatalCode := rfl
@[simp] theorem State.present_fatalPort (s : State) (st : Stimulus) : (s.present st).fatalPort = s.fatalPort := rfl
@[simp] theorem State.present_fatalHandle (s : State) (st : Stimulus) : (s.present st).fatalHandle = s.fatalHandle := rfl
@[simp] theorem State.present_decRcv (s : State) (st : Stimulus) : (s.present st).decRcv = s.decRcv := rfl
@[simp] theorem State.present_decH (s : State) (st : Stimulus) : (s.present st).decH = s.decH := rfl
@[simp] theorem State.present_decCnt (s : State) (st : Stimulus) : (s.present st).decCnt = s.decCnt := rfl
@[simp] theorem State.present_owner (s : State) (st : Stimulus) : (s.present st).owner = s.owner := rfl
@[simp] theorem State.present_pool (s : State) (st : Stimulus) : (s.present st).pool = s.pool := rfl
@[simp] theorem State.present_ch (s : State) (st : Stimulus) : (s.present st).ch = s.ch := rfl
@[simp] theorem State.present_port (s : State) (st : Stimulus) : (s.present st).port = s.port := rfl
@[simp] theorem State.present_rbStore (s : State) (st : Stimulus) : (s.present st).rbStore = s.rbStore := rfl
@[simp] theorem State.present_rbRd (s : State) (st : Stimulus) : (s.present st).rbRd = s.rbRd := rfl
@[simp] theorem State.present_rbWr (s : State) (st : Stimulus) : (s.present st).rbWr = s.rbWr := rfl
@[simp] theorem State.present_rbCnt (s : State) (st : Stimulus) : (s.present st).rbCnt = s.rbCnt := rfl
@[simp] theorem State.present_dbSt0 (s : State) (st : Stimulus) : (s.present st).dbSt0 = s.dbSt0 := rfl
@[simp] theorem State.present_dbSt1 (s : State) (st : Stimulus) : (s.present st).dbSt1 = s.dbSt1 := rfl
@[simp] theorem State.present_trace (s : State) (st : Stimulus) : (s.present st).trace = s.trace := rfl
@[simp] theorem State.present_inbox (s : State) (st : Stimulus) : (s.present st).inbox = s.inbox ++ [st] := rfl
@[simp] theorem State.present_epoch (s : State) (st : Stimulus) : (s.present st).epoch = s.epoch := rfl

@[simp] theorem State.setDb_dbSt_same (s : State) (i : DbInput) (d : DbState) : (s.setDb i d).dbSt i = d := by
  cases i <;> rfl

theorem State.setDb_dbSt_other (s : State) (i j : DbInput) (d : DbState) (h : j ≠ i) :
    (s.setDb i d).dbSt j = s.dbSt j := by
  cases i <;> cases j <;> first | rfl | exact absurd rfl h

end Sys2Proof.Machine
end

