-- ==== Sys2Proof/Laws/Ops.lean ====
section
/-! SUPPORT. For each shared operation, once, everything it can do. -/

namespace Sys2Proof.Machine

/-! ### Responses -/

/-- A response word carries its fields where 30_encoding.md R110 puts them. -/
theorem responseWord_fields (rc : Rc) (h : Handle) (c : ChanId) (v : BitVec 16) :
    CarriesFields (responseWord rc h c v) rc.bits h c v := by
  refine ⟨?_, ?_, ?_, ?_⟩ <;> apply BitVec.eq_of_getLsbD_eq <;> intro i hi <;>
    simp only [responseWord, BitVec.getLsbD_extractLsb', BitVec.getLsbD_append] <;>
    (have : i < 28 := by omega) <;> interval_cases i <;> simp

@[simp] theorem responseWord_halted : responseWord .halted 0#8 0#4 0#16 = haltedWord := by decide
@[simp] theorem responseWord_timeout : responseWord .timeout 0#8 0#4 0#16 = timeoutWord := by decide
@[simp] theorem responseWord_illegal : responseWord .illegal 0#8 0#4 0#16 = illegalAnswer := by decide

/-! ### Alloc and Waiter -/

/-- `Alloc()` finds a free buffer and every lower-numbered one is not free (41_pool_channel.md R170). -/
theorem State.alloc_some {s : State} {h : Handle} (hs : s.owner.length ≤ 256) (ha : s.alloc = some h) :
    s.ownerOf h = some .free ∧ ∀ k < h.toNat, s.owner[k]? ≠ some .free := by
  unfold State.alloc at ha
  obtain ⟨n, hn, rfl⟩ := Option.map_eq_some_iff.mp ha
  obtain ⟨hlt, hp, hmin⟩ := List.findIdx?_eq_some_iff_getElem.mp hn
  have hn256 : n < 256 := by omega
  have ht : (BitVec.ofNat 8 n).toNat = n := by simp; omega
  refine ⟨?_, fun k hk => ?_⟩
  · simp only [State.ownerOf, ht, List.getElem?_eq_getElem hlt]
    simpa using hp
  · rw [ht] at hk
    have := hmin k hk
    have hkl : k < s.owner.length := by omega
    rw [List.getElem?_eq_getElem hkl]
    simpa using this

/-- The lowest free handle is the one `Alloc()` returns. -/
theorem State.alloc_of_lowest {s : State} {h : Handle} (hf : s.ownerOf h = some .free)
    (hmin : ∀ k < h.toNat, s.owner[k]? ≠ some .free) : s.alloc = some h := by
  have hlt : h.toNat < s.owner.length := by
    rcases List.getElem?_eq_some_iff.mp hf with ⟨hl, _⟩
    exact hl
  have : s.owner.findIdx? (fun o => o == .free) = some h.toNat := by
    refine List.findIdx?_eq_some_iff_getElem.mpr ⟨hlt, ?_, fun k hk => ?_⟩
    · have := List.getElem?_eq_some_iff.mp hf
      simp [this.2]
    · have hne := hmin k hk
      rw [List.getElem?_eq_getElem (by omega)] at hne
      simpa using hne
  simp [State.alloc, this]

/-- `Alloc()` finds nothing exactly when no buffer is free. -/
theorem State.alloc_none_iff {s : State} : s.alloc = none ↔ ∀ o ∈ s.owner, o ≠ .free := by
  simp [State.alloc, List.findIdx?_eq_none_iff]

/-- `Waiter(c)` is the lowest-numbered port waiting on `c` (41_pool_channel.md R171). -/
theorem State.waiter_some_iff {s : State} {c : ChanId} {q : Nat} :
    s.waiter c = some q ↔
      (∃ r, s.port[q]? = some (.wait c r)) ∧ ∀ k < q, ∀ r, s.port[k]? ≠ some (.wait c r) := by
  unfold State.waiter
  rw [List.findIdx?_eq_some_iff_getElem]
  constructor
  · rintro ⟨hlt, hp, hmin⟩
    refine ⟨?_, fun k hk r hkr => ?_⟩
    · rw [List.getElem?_eq_getElem hlt]
      cases hps : s.port[q] with
      | idle => rw [hps] at hp; simp [PortState.waitsOn] at hp
      | wait d r => rw [hps] at hp; simp [PortState.waitsOn] at hp; exact ⟨r, by rw [hp]⟩
    · have := hmin k hk
      obtain ⟨hkl, he⟩ := List.getElem?_eq_some_iff.mp hkr
      rw [he] at this
      simp [PortState.waitsOn] at this
  · rintro ⟨⟨r, hr⟩, hmin⟩
    obtain ⟨hlt, he⟩ := List.getElem?_eq_some_iff.mp hr
    refine ⟨hlt, by simp [he, PortState.waitsOn], fun k hk => ?_⟩
    have hkl : k < s.port.length := by omega
    have := hmin k hk
    cases hps : s.port[k] with
    | idle => simp [PortState.waitsOn]
    | wait d r =>
      have := this r
      rw [List.getElem?_eq_getElem hkl, hps] at this
      simp [PortState.waitsOn]
      intro hd
      exact this (by rw [hd])

/-- `Waiter(c)` is NONE exactly when no port waits on `c`. -/
theorem State.waiter_none_iff {s : State} {c : ChanId} :
    s.waiter c = none ↔ ∀ (q : Nat) (r : Remaining), s.port[q]? ≠ some (PortState.wait c r) := by
  unfold State.waiter
  rw [List.findIdx?_eq_none_iff]
  constructor
  · intro h q r hq
    have := h _ (List.mem_of_getElem? hq)
    simp [PortState.waitsOn] at this
  · intro h ps hps
    obtain ⟨q, hq⟩ := List.mem_iff_getElem?.mp hps
    cases ps with
    | idle => rfl
    | wait d r =>
      simp [PortState.waitsOn]
      intro hd
      exact h q r (by rw [hq, hd])

/-! ### Deliver -/

/-- Everything `Deliver(c, h, len)` can do (41_pool_channel.md R172). -/
theorem State.deliver_cases (s : State) (c : ChanId) (h : Handle) (len : MsgLen) :
    (∃ q, s.waiter c = some q ∧
      s.deliver c h len = some ((s.setOwner h (.held q)).respond q .ok h c (len.setWidth 16))) ∨
    (s.waiter c = none ∧ (s.chan c).length < s.cfg.depth c ∧
      s.deliver c h len = some ((s.setChan c (s.chan c ++ [⟨h, len⟩])).setOwner h (.queued c))) ∨
    (s.waiter c = none ∧ ¬ (s.chan c).length < s.cfg.depth c ∧ s.deliver c h len = none) := by
  unfold State.deliver
  cases hw : s.waiter c with
  | some q => exact .inl ⟨q, rfl, rfl⟩
  | none =>
    by_cases hl : (s.chan c).length < s.cfg.depth c
    · exact .inr (.inl ⟨rfl, hl, by simp [hl]⟩)
    · exact .inr (.inr ⟨rfl, hl, by simp [hl]⟩)

/-! ### The sweep over the ports -/

/-- The answer a sweep gives to a port in state `ps`. -/
def sweepWord (f : PortState → PortState × Option Rc) (ps : PortState) : Option Word :=
  (f ps).2.map (fun rc => responseWord rc 0#8 0#4 0#16)

/-- A sweep answers each port at most once, with the code its state calls for. -/
theorem sweepAnswers_count (f : PortState → PortState × Option Rc) (w : Word) (ports : List PortState)
    (q₀ q : Nat) :
    (sweepAnswers f q₀ ports).count (.resp q w) =
      if q₀ ≤ q ∧ ports[q - q₀]?.bind (sweepWord f) = some w then 1 else 0 := by
  induction ports generalizing q₀ with
  | nil => simp [sweepAnswers]
  | cons ps rest ih =>
    have tail : (sweepAnswers f (q₀ + 1) rest).count (.resp q w) =
        if q₀ + 1 ≤ q ∧ (ps :: rest)[q - q₀]?.bind (sweepWord f) = some w then 1 else 0 := by
      rw [ih (q₀ + 1)]
      by_cases hq : q₀ + 1 ≤ q
      · have : q - q₀ = (q - (q₀ + 1)) + 1 := by omega
        rw [this, List.getElem?_cons_succ]
      · simp [hq]
    unfold sweepAnswers
    rcases Nat.lt_trichotomy q q₀ with hq | hq | hq
    · have h1 : ¬ q₀ ≤ q := by omega
      have h2 : ¬ q₀ + 1 ≤ q := by omega
      have h3 : q₀ ≠ q := by omega
      split <;> simp [tail, h1, h2, h3]
    · subst hq
      have h2 : ¬ q + 1 ≤ q := by omega
      split
      · next rc hrc => simp [tail, List.count_cons, sweepWord, hrc]
      · next hrc => simp [tail, sweepWord, hrc]
    · have h1 : q₀ ≤ q := by omega
      have h2 : q₀ + 1 ≤ q := by omega
      have h3 : q₀ ≠ q := by omega
      split <;> simp [tail, h1, h2, h3]

/-- A sweep puts out nothing but those answers. -/
theorem sweepAnswers_mem {f : PortState → PortState × Option Rc} {ports : List PortState} {q₀ : Nat}
    {o : Output} (h : o ∈ sweepAnswers f q₀ ports) :
    ∃ q ps rc, ps ∈ ports ∧ (f ps).2 = some rc ∧ o = .resp q (responseWord rc 0#8 0#4 0#16) := by
  induction ports generalizing q₀ with
  | nil => simp [sweepAnswers] at h
  | cons ps rest ih =>
    unfold sweepAnswers at h
    split at h
    · next rc hrc =>
      rcases List.mem_cons.mp h with e | e
      · exact ⟨q₀, ps, rc, List.mem_cons_self, hrc, e⟩
      · obtain ⟨q, x, r, hx, hr, ho⟩ := ih e
        exact ⟨q, x, r, List.mem_cons_of_mem _ hx, hr, ho⟩
    · obtain ⟨q, x, r, hx, hr, ho⟩ := ih h
      exact ⟨q, x, r, List.mem_cons_of_mem _ hx, hr, ho⟩

/-! ### The prologue -/

/-- Everything the common prologue of a command can do (60_exceptions.md R290). -/
theorem prologue_cases (i : Instr) (p : Nat) (s : State) (body : Host.Outcome State Fault Refusal) :
    (s.port[p]? = none ∧ prologue i p s body = .refused .noSuchPort) ∨
    (∃ c r, s.port[p]? = some (.wait c r) ∧ prologue i p s body = .refused .portWaiting) ∨
    (s.port[p]? = some .idle ∧ i.fieldsLegal s.cfg = false ∧ prologue i p s body = .next (s.answer p .illegal)) ∨
    (s.port[p]? = some .idle ∧ i.fieldsLegal s.cfg = true ∧ s.halted = true ∧ servedWhileHalted i = false ∧
      prologue i p s body = .next (s.answer p .halted)) ∨
    (s.port[p]? = some .idle ∧ i.fieldsLegal s.cfg = true ∧ (s.halted = true → servedWhileHalted i = true) ∧
      prologue i p s body = body) := by
  unfold prologue
  cases hp : s.port[p]? with
  | none => simp
  | some ps =>
    cases ps with
    | wait c r => simp
    | idle =>
      cases hl : i.fieldsLegal s.cfg <;> cases hh : s.halted <;> cases hs : servedWhileHalted i <;> simp

/-- A ready command is decided by its own rule. -/
theorem prologue_ready {i : Instr} {p : Nat} {s : State} (body : Host.Outcome State Fault Refusal)
    (h : Ready i p s) : prologue i p s body = body := by
  obtain ⟨hp, hl, hh⟩ := h
  simp [prologue, hp, hl, hh]

/-- Setting an IDLE port IDLE changes nothing. -/
theorem port_set_idle {s : State} {p : Nat} (h : s.port[p]? = some .idle) : s.port.set p .idle = s.port := by
  obtain ⟨hl, he⟩ := List.getElem?_eq_some_iff.mp h
  rw [← he]; exact List.set_getElem_self hl

/-! ### Answers, the halt, the ring, runs -/

/-- An answer on an IDLE port writes nothing but the trace. -/
theorem State.respond_idle {s : State} {p : Nat} (rc : Rc) (h : Handle) (c : ChanId) (v : BitVec 16)
    (hp : s.port[p]? = some .idle) :
    s.respond p rc h c v = { s with trace := s.trace ++ [.resp p (responseWord rc h c v)] } := by
  simp only [State.respond, State.setPort, State.emit, port_set_idle hp]

/-- The same of an answer without data. -/
theorem State.answer_idle {s : State} {p : Nat} (rc : Rc) (hp : s.port[p]? = some .idle) :
    s.answer p rc = { s with trace := s.trace ++ [.resp p (responseWord rc 0#8 0#4 0#16)] } :=
  State.respond_idle rc 0#8 0#4 0#16 hp

/-- Equal storage fields read the same. -/
theorem keepsStorage_of_eq {s t : State} (hp : t.pool = s.pool) (hr : t.rbStore = s.rbStore)
    (he : t.epoch = s.epoch) : KeepsStorage s t :=
  ⟨fun a => by simp [State.poolByte, hp, he], fun a => by simp [State.ringByte, hr, he]⟩

/-- Everything fatal entry does (60_exceptions.md R285). -/
theorem takeFatal_entered {s : State} {p : Nat} (code : FatalCode) (h : Handle) (hp : s.port[p]? = some .idle) :
    FatalEntered s (takeFatal code p h s) code p h := by
  have hports : (takeFatal code p h s).port = List.replicate s.port.length .idle := by
    have : s.port.map (fun ps => (haltPort ps).1) = List.replicate s.port.length .idle := by
      refine List.eq_replicate_iff.mpr ⟨by simp, fun x hx => ?_⟩
      obtain ⟨y, _, rfl⟩ := List.mem_map.mp hx
      cases y <;> rfl
    rw [takeFatal_port, this]; simp
  refine ⟨by rw [← hports]; rfl, keepsStorage_of_eq (by simp) (by simp) (by simp),
    sweepAnswers haltPort 0 s.port ++ [.resp p haltedWord], by simp, fun o ho => ?_, fun q => ?_⟩
  · rcases List.mem_append.mp ho with ho | ho
    · obtain ⟨q, ps, rc, _, hf, rfl⟩ := sweepAnswers_mem ho
      cases ps <;> simp [haltPort] at hf
      subst hf
      exact ⟨q, by simp⟩
    · exact ⟨p, by simpa using ho⟩
  · rw [List.count_append, sweepAnswers_count]
    by_cases hq : q = p
    · subst hq; simp [hp, sweepWord, haltPort]
    · have hq' : p ≠ q := fun e => hq e.symm
      cases hps : s.port[q]? with
      | none => simp [hq, hq']
      | some ps => cases ps <;> simp [hq, hq', sweepWord, haltPort, PortState.waiting]

/-- Everything `RingPut(v)` does (43_ring_buffer.md R240). -/
theorem State.ringPut_cases (s : State) (v : Byte) :
    (s.rbCnt.toNat = s.cfg.C ∧ s.ringPut v = none) ∨
    (s.rbCnt.toNat ≠ s.cfg.C ∧ ∃ t, s.ringPut v = some t ∧
      t = { s with rbStore := t.rbStore, rbWr := ringNext s.cfg s.rbWr, rbCnt := s.rbCnt + 1#16 } ∧
      t.ringByte s.rbWr.toNat = v ∧ ∀ j, j ≠ s.rbWr.toNat → t.ringByte j = s.ringByte j) := by
  by_cases h : s.rbCnt.toNat = s.cfg.C
  · exact .inl ⟨h, by simp [State.ringPut, State.ringFull, h]⟩
  · refine .inr ⟨h, _, by simp [State.ringPut, State.ringFull, h]; rfl, rfl, by simp [State.ringByte], ?_⟩
    intro j hj
    simp [State.ringByte, Memory.read_write_other _ _ hj]

/-- The answers of a trace are those of its parts, in order. -/
theorem answersOn_append (p : Nat) (a b : List Output) : answersOn p (a ++ b) = answersOn p a ++ answersOn p b := by
  induction a with
  | nil => rfl
  | cons x a ih => cases x <;> simp [answersOn, ih]; split <;> simp

/-- The diagnostic events of a trace are those of its parts, in order. -/
theorem diagsOf_append (a b : List Output) : diagsOf (a ++ b) = diagsOf a ++ diagsOf b := by
  induction a with
  | nil => rfl
  | cons x a ih => cases x <;> simp [diagsOf, ih]

/-- A run goes on from where its first part ends. -/
theorem execAll_append {a b : List Instr} {s t : State} (h : execAll a s = .next t) :
    execAll (a ++ b) s = execAll b t := by
  induction a generalizing s with
  | nil => cases h; rfl
  | cons i a ih =>
    simp only [execAll, List.cons_append] at h ⊢
    cases he : exec i s with
    | next u => rw [he] at h; exact ih h
    | fault f => rw [he] at h; cases h
    | refused r => rw [he] at h; cases h

/-! ### The next stimulus -/

/-- The stimulus taken is the first one the block has a step for; what is held before it and what follows it
stay (20_memory.md R91). -/
theorem takeFirst_eq_some_iff {can : Stimulus → Bool} {l : List Stimulus} {st : Stimulus} {rest : List Stimulus} :
    takeFirst can l = some (st, rest) ↔
      ∃ held after, l = held ++ st :: after ∧ rest = held ++ after ∧ can st = true ∧
        ∀ x ∈ held, can x = false := by
  induction l generalizing rest with
  | nil => simp [takeFirst]
  | cons x l ih =>
    unfold takeFirst
    cases hx : can x with
    | true =>
      simp only [if_true, Option.some.injEq, Prod.mk.injEq]
      constructor
      · rintro ⟨rfl, rfl⟩
        exact ⟨[], l, rfl, rfl, hx, by simp⟩
      · rintro ⟨held, after, hl, hr, hc, hh⟩
        cases held with
        | nil => simp at hl; exact ⟨hl.1, by rw [hr]; simpa using hl.2⟩
        | cons y held =>
          simp at hl
          have := hh y (by simp)
          rw [← hl.1, hx] at this
          cases this
    | false =>
      simp only [Bool.false_eq_true, if_false]
      constructor
      · intro h
        split at h
        · next y ys hy =>
          simp only [Option.some.injEq, Prod.mk.injEq] at h
          obtain ⟨rfl, rfl⟩ := h
          obtain ⟨held, after, hl, hr, hc, hh⟩ := ih.mp hy
          refine ⟨x :: held, after, by rw [hl]; rfl, by rw [hr]; rfl, hc, ?_⟩
          intro z hz
          rcases List.mem_cons.mp hz with e | e
          · rw [e]; exact hx
          · exact hh z e
        · cases h
      · rintro ⟨held, after, hl, hr, hc, hh⟩
        cases held with
        | nil => simp at hl; rw [hl.1, hc] at hx; cases hx
        | cons y held =>
          simp at hl
          have := ih (rest := held ++ after) |>.mpr
            ⟨held, after, hl.2, rfl, hc, fun z hz => hh z (List.mem_cons_of_mem _ hz)⟩
          rw [this, hr, hl.1]
          rfl

/-- No stimulus is taken exactly when the block has a step for none of them. -/
theorem takeFirst_eq_none_iff {can : Stimulus → Bool} {l : List Stimulus} :
    takeFirst can l = none ↔ ∀ x ∈ l, can x = false := by
  induction l with
  | nil => simp [takeFirst]
  | cons x l ih =>
    unfold takeFirst
    cases hx : can x with
    | true => simp [hx]
    | false =>
      simp only [Bool.false_eq_true, if_false, List.mem_cons, forall_eq_or_imp, hx, true_and]
      rw [← ih]
      split <;> simp_all

end Sys2Proof.Machine
end

