-- ==== Sys2Proof/Laws/PerInstr.lean ====
section
/-! SUPPORT. Laws of the instructions as syntax, one lemma per constructor. -/

namespace Sys2Proof.Laws.MaskMatch

open Sys2Proof

/-- A host command is presented on its own port as a word that a row of the opcode map accepts (30_encoding.md
R106); an input event is no command word. -/
def Statement (i : Instr) : Prop :=
  match encode i with
  | .command p w => i.port? = some p ∧ ∃ r ∈ commandRows, w &&& r.mask = r.bits
  | .rx _ | .scanStrobe _ | .timeoutTick | .resetLine => i.port? = none

theorem acquire (p : Nat) : Statement (.acquire p) := ⟨rfl, rowAcquire, by simp [commandRows], by decide⟩

theorem release (p : Nat) (h : Handle) : Statement (.release p h) := by
  refine ⟨rfl, rowRelease, by simp [commandRows], BitVec.eq_of_getLsbD_eq fun k hk => ?_⟩
  simp only [rowRelease, BitVec.getLsbD_and, BitVec.getLsbD_append]
  interval_cases k <;> simp

theorem post (p : Nat) (c : ChanId) (h : Handle) (len : BitVec 16) : Statement (.post p c h len) := by
  refine ⟨rfl, rowPost, by simp [commandRows], BitVec.eq_of_getLsbD_eq fun k hk => ?_⟩
  simp only [rowPost, BitVec.getLsbD_and, BitVec.getLsbD_append]
  interval_cases k <;> simp

theorem recv (p : Nat) (c : ChanId) (tmo : BitVec 16) : Statement (.recv p c tmo) := by
  refine ⟨rfl, rowRecv, by simp [commandRows], BitVec.eq_of_getLsbD_eq fun k hk => ?_⟩
  simp only [rowRecv, BitVec.getLsbD_and, BitVec.getLsbD_append]
  interval_cases k <;> simp

theorem bufRd (p : Nat) (h : Handle) (off : BitVec 12) : Statement (.bufRd p h off) := by
  refine ⟨rfl, rowBufRd, by simp [commandRows], BitVec.eq_of_getLsbD_eq fun k hk => ?_⟩
  simp only [rowBufRd, BitVec.getLsbD_and, BitVec.getLsbD_append]
  interval_cases k <;> simp

theorem bufWr (p : Nat) (h : Handle) (off : BitVec 12) (data : Byte) : Statement (.bufWr p h off data) := by
  refine ⟨rfl, rowBufWr, by simp [commandRows], BitVec.eq_of_getLsbD_eq fun k hk => ?_⟩
  simp only [rowBufWr, BitVec.getLsbD_and, BitVec.getLsbD_append]
  interval_cases k <;> simp

theorem rbGet (p : Nat) : Statement (.rbGet p) := ⟨rfl, rowRbGet, by simp [commandRows], by decide⟩

theorem rdstat (p : Nat) (reg : Byte) : Statement (.rdstat p reg) := by
  refine ⟨rfl, rowRdstat, by simp [commandRows], BitVec.eq_of_getLsbD_eq fun k hk => ?_⟩
  simp only [rowRdstat, BitVec.getLsbD_and, BitVec.getLsbD_append]
  interval_cases k <;> simp

theorem rxByte (b : Byte) : Statement (.rxByte b) := rfl

theorem scan (s0 s1 : Bool) : Statement (.scan s0 s1) := rfl

theorem tick : Statement .tick := rfl

theorem reset : Statement .reset := rfl

end Sys2Proof.Laws.MaskMatch
end

