-- ==== Sys2Proof/Laws/Step.lean ====
section
/-! SUPPORT. What a step can do around exec, and the two fields no instruction writes. -/

namespace Sys2Proof.Machine

/-- The fields that belong to the build and to the agents: `t` has those of `s`. -/
def KeepsEnv (s t : State) : Prop := t.cfg = s.cfg ∧ t.inbox = s.inbox

/-- A delivery writes neither. -/
theorem State.deliver_keepsEnv {s t : State} {c : ChanId} {h : Handle} {len : MsgLen}
    (ht : s.deliver c h len = some t) : KeepsEnv s t := by
  rcases s.deliver_cases c h len with ⟨q, _, he⟩ | ⟨_, _, he⟩ | ⟨_, _, he⟩ <;> rw [he] at ht <;> cases ht <;>
    exact ⟨by simp, by simp⟩

/-- A pool write writes neither. -/
theorem State.memWrite_keepsEnv {s t : State} {a : Nat} {v : Byte} (ht : s.memWrite a v = some t) :
    KeepsEnv s t := by
  rw [(State.memWrite_spec ht).2.1]; exact ⟨rfl, rfl⟩

/-- A debounce step writes neither. -/
theorem dbStep_keepsEnv (i : DbInput) (smp : Bool) (s : State) : KeepsEnv s (dbStep i smp s) := by
  have hp : KeepsEnv s (push i s) := by
    unfold push State.ringPut
    split
    · next t ht =>
      split at ht
      · cases ht
      · cases ht; exact ⟨by simp, by simp⟩
    · exact ⟨by simp, by simp⟩
  unfold dbStep
  split <;> first | exact hp | exact ⟨by simp, by simp⟩

/-- No body a prologue guards can spoil what its own answers keep. -/
theorem prologue_keepsEnv {i : Instr} {p : Nat} {s t : State} {body : Host.Outcome State Fault Refusal}
    (hb : body = .next t → KeepsEnv s t) (h : prologue i p s body = .next t) : KeepsEnv s t := by
  rcases prologue_cases i p s body with ⟨_, e⟩ | ⟨_, _, _, e⟩ | ⟨_, _, e⟩ | ⟨_, _, _, _, e⟩ | ⟨_, _, _, e⟩ <;>
    rw [e] at h
  · cases h
  · cases h
  · cases h; exact ⟨by simp, by simp⟩
  · cases h; exact ⟨by simp, by simp⟩
  · exact hb h

/-- No instruction writes the parameters (00_scope.md R6) or the stimuli the agents have presented. -/
theorem exec_keepsEnv {i : Instr} {s t : State} (h : exec i s = .next t) : KeepsEnv s t := by
  have rfl' : KeepsEnv s s := ⟨rfl, rfl⟩
  cases i with
  | acquire p =>
    refine prologue_keepsEnv (fun h => ?_) h
    split at h <;> cases h <;> exact ⟨by simp, by simp⟩
  | release p hd =>
    refine prologue_keepsEnv (fun h => ?_) h
    split at h
    · cases h; exact ⟨by simp, by simp⟩
    · split at h <;> cases h <;> exact ⟨by simp, by simp⟩
  | post p c hd len =>
    refine prologue_keepsEnv (fun h => ?_) h
    split at h
    · cases h; exact ⟨by simp, by simp⟩
    · split at h
      · cases h; exact ⟨by simp, by simp⟩
      · next u hu => cases h; simpa [KeepsEnv] using State.deliver_keepsEnv hu
  | recv p c tmo =>
    refine prologue_keepsEnv (fun h => ?_) h
    split at h <;> cases h <;> exact ⟨by simp, by simp⟩
  | bufRd p hd off =>
    refine prologue_keepsEnv (fun h => ?_) h
    split at h
    · cases h; exact ⟨by simp, by simp⟩
    · split at h <;> cases h
      exact ⟨by simp, by simp⟩
  | bufWr p hd off data =>
    refine prologue_keepsEnv (fun h => ?_) h
    split at h
    · cases h; exact ⟨by simp, by simp⟩
    · split at h
      · cases h
      · next u hu => cases h; simpa [KeepsEnv] using State.memWrite_keepsEnv hu
  | rbGet p =>
    refine prologue_keepsEnv (fun h => ?_) h
    split at h
    · cases h; exact ⟨by simp, by simp⟩
    · split at h <;> cases h <;> exact ⟨by simp, by simp⟩
  | rdstat p reg =>
    refine prologue_keepsEnv (fun h => ?_) h
    split at h <;> cases h <;> exact ⟨by simp, by simp⟩
  | rxByte b =>
    simp only [exec, execRxByte] at h
    split at h
    · cases h; exact rfl'
    · split at h
      · split at h
        · cases h
          unfold rxStart
          split <;> exact ⟨by simp, by simp⟩
        · split at h <;> cases h
          · exact ⟨by simp, by simp⟩
          · exact rfl'
      · split at h
        · cases h
        · next hd _ =>
          split at h
          · cases h
            unfold rxEnd
            split
            · exact ⟨by simp, by simp⟩
            · next u hu => simpa [KeepsEnv] using State.deliver_keepsEnv hu
          · split at h
            · cases h; exact ⟨by simp [rxOverflow], by simp [rxOverflow]⟩
            · unfold rxPayload at h
              split at h
              · cases h
              · next u hu => cases h; exact ⟨(State.memWrite_keepsEnv hu).1, (State.memWrite_keepsEnv hu).2⟩
  | scan s0 s1 =>
    simp only [exec, execScan] at h
    split at h <;> cases h
    · exact rfl'
    · have a := dbStep_keepsEnv .in0 s0 s
      have b := dbStep_keepsEnv .in1 s1 (dbStep .in0 s0 s)
      exact ⟨b.1.trans a.1, b.2.trans a.2⟩
  | tick =>
    simp only [exec, execTick] at h
    split at h <;> cases h
    · exact rfl'
    · exact ⟨by simp, by simp⟩
  | reset => cases h; exact ⟨by simp, by simp⟩

/-- A row check rejects on the port it was given. -/
theorem checkRow_reject_port {r : CommandRow} {p q : Nat} {w : Word} {i : Instr} {d : DecodeReject}
    (h : checkRow r p w i = .reject q d) : q = p := by
  unfold checkRow at h
  split at h <;> cases h
  rfl

/-- A rejected word is rejected on the port that presented it. -/
theorem decodeCommand_reject_port {p q : Nat} {w : Word} {d : DecodeReject}
    (h : decodeCommand p w = .reject q d) : q = p := by
  unfold decodeCommand at h
  split at h
  all_goals first | exact checkRow_reject_port h | (cases h; rfl)

/-- Everything a step that answers a next state can be: nothing to take, an instruction, or an illegal word. -/
theorem step_cases {s t : State} (h : step s = .next t) :
    s.cfg.legal = true ∧
      ((s.takeNext = none ∧ t = s) ∨
        (∃ st rest i, s.takeNext = some (st, rest) ∧ decode st = .instr i ∧
          exec i { s with inbox := rest } = .next t) ∨
        ∃ p w rest r, s.takeNext = some (.command p w, rest) ∧ decode (.command p w) = .reject p r ∧
          s.port[p]? = some .idle ∧ t = State.answer { s with inbox := rest } p .illegal) := by
  unfold step stepOnce at h
  split at h
  · next hl =>
    refine ⟨hl, ?_⟩
    split at h
    · next hn => cases h; exact .inl ⟨hn, rfl⟩
    · next st rest hn =>
      refine .inr ?_
      cases hd : decode st with
      | instr i => rw [hd] at h; exact .inl ⟨st, rest, i, hn, hd, h⟩
      | reject p r =>
        rw [hd] at h
        cases st with
        | command q w =>
          have hq : p = q := decodeCommand_reject_port hd
          subst hq
          simp only [runDecoded, illegalWord] at h
          split at h
          · cases h
          · cases h
          · next hp => cases h; exact .inr ⟨p, w, rest, r, hn, hd, hp, rfl⟩
        | rx b => cases hd
        | scanStrobe ts => cases hd
        | timeoutTick => cases hd
        | resetLine => cases hd
  · cases h

end Sys2Proof.Machine
end

