-- ==== Sys2Proof/Tests/Slice0.lean ====
section
/-! SUPPORT. The model's own tests and the witnesses of the statements' hypotheses. Expected values are those of
95_test_vectors.md, or are worked out by hand from the rule named. -/

namespace Sys2Proof.Tests

open Sys2Proof Sys2Proof.Machine

/-- Whether an outcome is a next state that passes `f`. -/
def passes (o : Host.Outcome State Fault Refusal) (f : State → Bool) : Bool :=
  match o with
  | .next t => f t
  | .fault _ => false
  | .refused _ => false

/-- The parameters of the test vectors (95_test_vectors.md section 0). -/
abbrev g2 : Config := Config.testVectors

/-- The same with four buffers, as vector FD-8 and P-5 need more than two. -/
abbrev g4 : Config := { Config.testVectors with N := 4 }

/-! ### WellFormed: one ill-formed term for each check -/

theorem test_wellFormed_accepts : (Instr.post 1 1#4 1#8 8#16).wellFormed g2 = true := by decide
theorem test_wellFormed_handle : (Instr.release 0 2#8).wellFormed g2 = false := by decide
theorem test_wellFormed_channel : (Instr.recv 0 2#4 0#16).wellFormed g2 = false := by decide
theorem test_wellFormed_length : (Instr.post 0 0#4 0#8 9#16).wellFormed g2 = false := by decide
theorem test_wellFormed_offset : (Instr.bufRd 0 0#8 8#12).wellFormed g2 = false := by decide
theorem test_wellFormed_register : (Instr.rdstat 0 0x12#8).wellFormed g2 = false := by decide
theorem test_wellFormed_port : (Instr.acquire 2).wellFormed g2 = false := by decide

/-- 00_scope.md R6: each range of a parameter. -/
theorem test_legal_ranges :
    g2.legal = true ∧ g4.legal = true ∧ { g2 with END := 0x23#8 }.legal = false ∧ { g2 with N := 257 }.legal = false ∧
      { g2 with S := 4097 }.legal = false ∧ { g2 with NCH := 3 }.legal = false ∧ { g2 with DEPTH := [2, 0] }.legal = false ∧
      { g2 with C := 0 }.legal = false ∧ { g2 with RB_CONSUMER := 2 }.legal = false ∧ { g2 with EV1 := 0x01#8 }.legal = false := by
  decide

/-! ### Decoding: each row's word written out from 30_encoding.md R101 to R106 -/

-- OP 0001, 28 reserved zeros
theorem test_decode_acquire : decode (.command 1 0b00010000000000000000000000000000#32) = .instr (.acquire 1) := by decide
-- OP 0010, H 10100101, 20 reserved zeros
theorem test_decode_release :
    decode (.command 0 0b00101010010100000000000000000000#32) = .instr (.release 0 0xA5#8) := by decide
-- OP 0011, H 00000001, CH 0010, VAL 0000000000000101
theorem test_decode_post :
    decode (.command 0 0b00110000000100100000000000000101#32) = .instr (.post 0 2#4 1#8 5#16) := by decide
-- OP 0100, 8 reserved zeros, CH 1001, VAL 1000000000000001
theorem test_decode_recv :
    decode (.command 3 0b01000000000010011000000000000001#32) = .instr (.recv 3 9#4 0x8001#16) := by decide
-- OP 0101, H 00000011, OFF 100000000010, 8 reserved zeros
theorem test_decode_bufRd :
    decode (.command 0 0b01010000001110000000001000000000#32) = .instr (.bufRd 0 3#8 0x802#12) := by decide
-- OP 0110, H 00000011, OFF 000000000001, DATA 11110000
theorem test_decode_bufWr :
    decode (.command 0 0b01100000001100000000000111110000#32) = .instr (.bufWr 0 3#8 1#12 0xF0#8) := by decide
-- OP 0111, 28 reserved zeros
theorem test_decode_rbGet : decode (.command 0 0b01110000000000000000000000000000#32) = .instr (.rbGet 0) := by decide
-- OP 1000, 20 reserved zeros, REG 00010001
theorem test_decode_rdstat :
    decode (.command 0 0b10000000000000000000000000010001#32) = .instr (.rdstat 0 0x11#8) := by decide
-- R112: the events' payloads
theorem test_decode_events :
    decode (.rx 0x24#8) = .instr (.rxByte 0x24#8) ∧ decode (.scanStrobe 0b01#2) = .instr (.scan true false) ∧
      decode .timeoutTick = .instr .tick ∧ decode .resetLine = .instr .reset := by decide
-- R108: each illegal word of 95_test_vectors.md section 2.6 that no row accepts
theorem test_decode_rejects :
    decode (.command 0 0x00000000#32) = .reject 0 .opcode ∧ decode (.command 0 0x90000000#32) = .reject 0 .opcode ∧
      decode (.command 0 0xF0000000#32) = .reject 0 .opcode ∧
      decode (.command 0 0x10000001#32) = .reject 0 .reservedBits ∧
      decode (.command 0 0x20000001#32) = .reject 0 .reservedBits ∧
      decode (.command 0 0x40100000#32) = .reject 0 .reservedBits ∧
      decode (.command 0 0x50000001#32) = .reject 0 .reservedBits ∧
      decode (.command 0 0x70000100#32) = .reject 0 .reservedBits ∧
      decode (.command 0 0x80000100#32) = .reject 0 .reservedBits := by decide
/-- The script line of vector P-13's second step and its word. -/
theorem test_script_bufWr :
    assembleLine "P0: BUF_WR 0, 3, 0xFF".toList = some [.command 0 0x600003FF#32] := by decide
/-- A text form and a repeated form of 30_encoding.md R115. -/
theorem test_script_pseudo :
    assembleLine "RX \"#a$\"".toList = some [.rx 0x23#8, .rx 0x61#8, .rx 0x24#8] ∧
      assembleLine "SCAN 2 x (1, 0)".toList = some [.scanStrobe 0b01#2, .scanStrobe 0b01#2] := by decide

/-- Log 13: where `_` may stand (the literal is 00_scope.md R8's), a port in hexadecimal, and a quoted character that
is no operand. -/
theorem test_script_numbers :
    atomNumber "0x3001_0003".toList = some 0x30010003 ∧ atomNumber "0x_".toList = none ∧
      atomNumber "5_".toList = none ∧ atomNumber "1__0".toList = none ∧
      assembleLine "P0x1: ACQUIRE".toList = some [.command 1 0x10000000#32] ∧
      assembleLine "P0: BUF_WR 0, 3, 'A'".toList = none ∧ assembleLine "RX 'A'".toList = some [.rx 0x41#8] := by
  decide

/-- Vector FD-7's line, and log 14's quote marks. -/
theorem test_script_bytes_and_quotes :
    assembleLine "RX 0x23, 0x00, 0xFF, 0x24".toList =
        some [.rx 0x23#8, .rx 0x00#8, .rx 0xFF#8, .rx 0x24#8] ∧
      assembleLine "RX 0x23, 0x100".toList = none ∧ assembleLine "RX 0x23,".toList = none ∧
      assembleLine ['R', 'X', ' ', '\'', '\'', '\''] = some [.rx 0x27#8] ∧
      assembleLine ['R', 'X', ' ', '"', 'a', '"', 'b', '"'] = none := by decide

/-! ### The step -/

/-- A table word presented first is what the next step runs: RDSTAT 4 after reset (vector S-3). -/
theorem test_step_runs_fetched_word :
    passes (step (State.reset.withFetchWord 32 0x80000004)) (fun t => t.trace == [.resp 0 0x00000002#32]) = true := by
  decide
/-- The word is taken on the consumer's port, and an 8-bit row is a received byte. -/
theorem test_decodeTableWord :
    decodeTableWord 32 0x70000000 = some (.rbGet 0) ∧ decodeTableWord 8 0x24 = some (.rxByte 0x24#8) ∧
      decodeTableWord 2 2 = some (.scan false true) ∧ decodeTableWord 0 0 = some .tick := by decide
/-- 70_reset_and_hazards.md R330: a waiting port's word is held and the next agent's stimulus is taken. -/
theorem test_step_holds_waiting_port :
    passes
      (step { State.reset with
        port := [.wait 0#4 .forever, .idle], inbox := [.command 0 0x10000000#32, .rx 0x24#8] })
      (fun t => t.inbox == [.command 0 0x10000000#32] && t.trace == [.diag .strayEnd]) = true := by decide
/-- An illegal word is answered ILLEGAL, also while halted (section 2.6). -/
theorem test_step_illegal_word_halted :
    passes (step { State.reset with halted := true, inbox := [.command 0 0x00000000#32] })
      (fun t => t.trace == [.resp 0 0x50000000#32] && t.halted) = true := by decide

/-! ### Instructions: one step each on a small state -/

/-- Port 0 holds buffer 0; buffer 1 is free. -/
def sHeld : State := { State.reset with owner := [.held 0, .free] }

/-- `sHeld` while port 1 waits on channel 1 (vector P-7). -/
def sWaiter : State := { sHeld with port := [.idle, .wait 1#4 .forever] }

/-- Buffer 0 is queued in channel 0 with length 5 (vector V1 after step 7). -/
def sQueued : State := { State.reset with owner := [.queued 0#4, .free], ch := [[⟨0#8, 5#13⟩], []] }

/-- The decoder receives into buffer 0 and has stored the bytes `ab` (vector FD-10). -/
def sReceiving : State :=
  { State.reset with owner := [.dec, .free], decRcv := true, decH := some 0#8, decCnt := 2#13
                     pool := [(0, 0x61#8), (1, 0x62#8)] }

/-- A full ring, both inputs CONFIRMED (vector DB-5). -/
def sRingFull : State :=
  { State.reset with rbStore := [(0, 0x01#8), (1, 0x02#8), (2, 0x01#8), (3, 0x02#8)], rbCnt := 4#16
                     dbSt0 := .confirmed, dbSt1 := .confirmed }

-- V3 step 2: the second buffer; step 3: EXHAUSTED
theorem test_acquire_second :
    passes (exec (.acquire 0) sHeld)
      (fun t => t.owner == [.held 0, .held 0] && t.trace == [.resp 0 0x00100000#32]) = true := by decide
theorem test_acquire_exhausted :
    passes (exec (.acquire 1) { sHeld with owner := [.held 0, .held 0] })
      (fun t => t.owner == [.held 0, .held 0] && t.trace == [.resp 1 0x10000000#32]) = true := by decide
-- P-2: RELEASE of a buffer another port holds; V1 step 10
theorem test_release_notOwner :
    passes (exec (.release 1 0#8) sHeld)
      (fun t => t.halted && t.fatalCode == .notOwner && t.fatalPort == 1#4 && t.owner == [.held 0, .free] &&
        t.trace == [.diag .fatal, .resp 1 0x60000000#32]) = true := by decide
theorem test_release_frees :
    passes (exec (.release 0 0#8) sHeld)
      (fun t => t.owner == [.free, .free] && t.trace == [.resp 0 0x00000000#32]) = true := by decide
-- P-7: the waiting port is answered first, then the poster, in one step
theorem test_post_to_waiter :
    passes (exec (.post 0 1#4 0#8 1#16) sWaiter)
      (fun t => t.owner == [.held 1, .free] && t.port == [.idle, .idle] && t.ch == [[], []] &&
        t.trace == [.resp 1 0x00010001#32, .resp 0 0x00000000#32]) = true := by decide
-- P-5 with a full channel: FULL keeps the buffer with the poster
theorem test_post_full :
    passes
      (exec (.post 0 1#4 2#8 1#16)
        { State.resetWith g4 with
          owner := [.queued 1#4, .queued 1#4, .held 0, .free], ch := [[], [⟨0#8, 1#13⟩, ⟨1#8, 1#13⟩]] })
      (fun t => t.ownerOf 2#8 == some (.held 0) && t.trace == [.resp 0 0x20000000#32]) = true := by decide
-- V1 step 8; P-8: RECV waits with its count
theorem test_recv_oldest :
    passes (exec (.recv 0 0#4 0#16) sQueued)
      (fun t => t.owner == [.held 0, .free] && t.ch == [[], []] && t.trace == [.resp 0 0x00000005#32]) = true := by
  decide
theorem test_recv_waits :
    passes (exec (.recv 0 1#4 2#16) State.reset)
      (fun t => t.port == [.wait 1#4 (.ticks 2#16), .idle] && t.trace == []) = true := by decide
-- P-8: first and second TICK
theorem test_tick_counts :
    passes (exec .tick { State.reset with port := [.wait 1#4 (.ticks 2#16), .wait 0#4 .forever] })
      (fun t => t.port == [.wait 1#4 (.ticks 1#16), .wait 0#4 .forever] && t.trace == []) = true := by decide
theorem test_tick_timeout :
    passes (exec .tick { State.reset with port := [.wait 1#4 (.ticks 1#16), .idle] })
      (fun t => t.port == [.idle, .idle] && t.trace == [.resp 0 0x40000000#32]) = true := by decide
-- P-13 in buffer 1, whose base is S = 8
theorem test_bufWr_address :
    passes (exec (.bufWr 0 1#8 3#12 0xFF#8) { sHeld with owner := [.free, .held 0] })
      (fun t => t.pool == [(11, 0xFF#8)] && t.trace == [.resp 0 0x00000000#32]) = true := by decide
theorem test_bufRd_byte :
    passes (exec (.bufRd 0 0#8 1#12) { sHeld with pool := [(0, 0x48#8), (1, 0x69#8)] })
      (fun t => t.trace == [.resp 0 0x00000069#32]) = true := by decide
-- P-14
theorem test_bufRd_notOwner :
    passes (exec (.bufRd 1 0#8 0#12) sHeld)
      (fun t => t.fatalCode == .notOwner && t.trace == [.diag .fatal, .resp 1 0x60000000#32]) = true := by decide
-- R246: the read index wraps; RB-3
theorem test_rbGet_wraps :
    passes (exec (.rbGet 0) { sRingFull with rbRd := 3#16, rbWr := 3#16 })
      (fun t => t.rbRd == 0#16 && t.rbCnt == 3#16 && t.trace == [.resp 0 0x00000002#32]) = true := by decide
theorem test_rbGet_second_consumer :
    passes (exec (.rbGet 1) State.reset)
      (fun t => t.fatalCode == .secondConsumer && t.fatalPort == 1#4 && t.fatalHandle == 0#8) = true := by decide
-- FD-10's DEC_HANDLE; S-8's PORT_WAIT
theorem test_rdstat_decHandle :
    passes (exec (.rdstat 0 0x03#8) sReceiving) (fun t => t.trace == [.resp 0 0x00000100#32]) = true := by decide
theorem test_rdstat_portWait :
    passes (exec (.rdstat 0 0x07#8) { State.reset with port := [.idle, .wait 0#4 .forever] })
      (fun t => t.trace == [.resp 0 0x00000002#32]) = true := by decide
-- V7's inner START byte is data; FD-6: at a full buffer even START is dropped
theorem test_rxByte_start_is_data :
    passes (exec (.rxByte 0x23#8) sReceiving)
      (fun t => t.decCnt == 3#13 && t.pool == [(0, 0x61#8), (1, 0x62#8), (2, 0x23#8)]) = true := by decide
theorem test_rxByte_overflow :
    passes (exec (.rxByte 0x23#8) { sReceiving with decCnt := 8#13 })
      (fun t => t.owner == [.free, .free] && !t.decRcv && t.trace == [.diag .frameOverflow]) = true := by decide
-- V5 step 1's last SCAN; DB-6: one slot free, both inputs retry with sample 0, input 0 first
theorem test_scan_input0_first :
    passes (exec (.scan true true) { State.reset with dbSt0 := .candidate, dbSt1 := .candidate })
      (fun t => t.rbStore == [(0, 0x01#8), (1, 0x02#8)] && t.rbWr == 2#16 && t.rbCnt == 2#16) = true := by decide
theorem test_scan_retry :
    passes (exec (.scan false false) { sRingFull with rbRd := 1#16, rbCnt := 3#16 })
      (fun t => t.dbSt0 == .idle && t.dbSt1 == .confirmed && t.rbCnt == 4#16 && t.trace == [.diag .ringFull]) = true := by
  decide
-- RS-3: RESET in a frame; RS-2: a waiting port gets no answer
theorem test_reset_frees :
    passes (exec .reset { sReceiving with port := [.idle, .wait 0#4 .forever] })
      (fun t => t.owner == [.free, .free] && !t.decRcv && t.port == [.idle, .idle] && t.trace == [] && t.pool == []) =
      true := by decide

/-! ### Witnesses: for each statement with hypotheses, states and operands that meet them together -/

/-- Every holder of a list is an existing port. -/
def holdersExist (g : Config) (os : List Owner) : Bool :=
  os.all fun o =>
    match o with
    | .held p => decide (p < g.NPORT)
    | .free | .dec | .queued _ => true

/-- A channel's messages are among all the messages. -/
theorem mem_flatten_of_mem_chan {s : State} {c : ChanId} {m : Msg} (h : m ∈ s.chan c) : m ∈ s.ch.flatten := by
  unfold State.chan at h
  rw [List.getD_eq_getElem?_getD] at h
  cases hg : s.ch[c.toNat]? with
  | none => rw [hg] at h; simp at h
  | some l => rw [hg] at h; exact List.mem_flatten.mpr ⟨l, List.mem_of_getElem? hg, h⟩

/-- A statement about every channel from the same about the sixteen numbers. -/
theorem all_chans {P : ChanId → Prop} (h : ∀ n < 16, P (BitVec.ofNat 4 n)) (c : ChanId) : P c := by
  have := h c.toNat c.isLt
  simpa using this

/-- The invariant from its clauses, each in a form the kernel can evaluate. -/
theorem inv_of_clauses {s : State}
    (sizes : s.cfg.legal = true ∧ s.owner.length = s.cfg.N ∧ s.ch.length = s.cfg.NCH ∧ s.port.length = s.cfg.NPORT)
    (dec : (∀ k < s.owner.length,
        s.owner[k]? = some .dec ↔ (s.decRcv = true ∧ s.decH = some (BitVec.ofNat 8 k))) ∧
      (s.decRcv = true → ∀ h ∈ s.decH, h.toNat < s.owner.length))
    (que : (∀ k < s.owner.length, ∀ n < 16, s.owner[k]? = some (.queued (BitVec.ofNat 4 n)) ↔
        ∃ m ∈ s.chan (BitVec.ofNat 4 n), m.h.toNat = k) ∧ ∀ m ∈ s.ch.flatten, m.h.toNat < s.owner.length)
    (chs : (s.ch.flatten.map Msg.h).Nodup ∧ ∀ n < 16,
      ((∃ ps ∈ s.port, ps.waitsOn (BitVec.ofNat 4 n) = true) → s.chan (BitVec.ofNat 4 n) = []) ∧
        (s.chan (BitVec.ofNat 4 n)).length ≤ s.cfg.depth (BitVec.ofNat 4 n) ∧
        ∀ m ∈ s.chan (BitVec.ofNat 4 n), m.len.toNat ≤ s.cfg.S)
    (ring : s.rbCnt.toNat ≤ s.cfg.C ∧ s.rbWr.toNat = (s.rbRd.toNat + s.rbCnt.toNat) % s.cfg.C ∧
      s.rbRd.toNat < s.cfg.C ∧ Memory.wf s.rbStore ∧ (∀ x ∈ s.rbStore, x.1 < s.cfg.C) ∧
      ∀ k : Nat, k < s.rbCnt.toNat →
        (Memory.read s.rbStore ((s.rbRd.toNat + k) % s.cfg.C)).isSome = true)
    (frame : s.decCnt.toNat ≤ s.cfg.S ∧ (s.decRcv = false → s.decCnt = 0#13 ∧ s.decH = none) ∧
      (s.decRcv = true → s.decH ≠ none))
    (halt : (s.halted = true → ∀ ps ∈ s.port, ps = .idle) ∧
      (s.halted = false → s.fatalCode = .none ∧ s.fatalPort = 0#4 ∧ s.fatalHandle = 0#8) ∧
      (s.halted = true → s.fatalCode ≠ .none))
    (ports : holdersExist s.cfg s.owner = true ∧ ∀ ps ∈ s.port, ps.inRange s.cfg = true)
    (pool : Memory.wf s.pool ∧ ∀ x ∈ s.pool, x.1 < poolBytes s.cfg) : s.Inv where
  legal := sizes.1
  ownerSize := sizes.2.1
  chSize := sizes.2.2.1
  portSize := sizes.2.2.2
  decOwner h := by
    by_cases hl : h.toNat < s.owner.length
    · have := dec.1 h.toNat hl
      simpa [State.ownerOf] using this
    · refine ⟨fun e => absurd (List.getElem?_eq_some_iff.mp e).1 hl, fun ⟨hr, hd⟩ => absurd (dec.2 hr h hd) hl⟩
  queued h c := by
    by_cases hl : h.toNat < s.owner.length
    · have := que.1 h.toNat hl c.toNat c.isLt
      simpa [State.ownerOf, BitVec.toNat_inj] using this
    · refine ⟨fun e => absurd (List.getElem?_eq_some_iff.mp e).1 hl, ?_⟩
      rintro ⟨m, hm, rfl⟩
      exact absurd (que.2 m (mem_flatten_of_mem_chan hm)) hl
  distinct := chs.1
  waitersEmpty := all_chans fun n hn => (chs.2 n hn).1
  chanCap := all_chans fun n hn => (chs.2 n hn).2.1
  ringCap := ring.1
  ringWr := ring.2.1
  decCap := frame.1
  msgCap := all_chans fun n hn => (chs.2 n hn).2.2
  decOff := frame.2.1
  haltedIdle := halt.1
  record := halt.2.1
  recordHalted := halt.2.2
  decOn := frame.2.2
  heldPort h p e := by
    have := List.all_eq_true.mp ports.1 _ (List.mem_of_getElem? e)
    simpa using this
  waitRange := ports.2
  ringRd := ring.2.2.1
  poolWf := pool.1
  poolRange := pool.2
  ringWf := ring.2.2.2.1
  ringRange := ring.2.2.2.2.1
  ringWritten := ring.2.2.2.2.2

/-- The presented stimuli do not bear on the invariant. -/
theorem inv_withInbox {s : State} (h : s.Inv) (l : List Stimulus) : ({ s with inbox := l } : State).Inv :=
  ⟨h.legal, h.ownerSize, h.chSize, h.portSize, h.decOwner, h.queued, h.distinct, h.waitersEmpty, h.chanCap,
    h.ringCap, h.ringWr, h.decCap, h.msgCap, h.decOff, h.haltedIdle, h.record, h.recordHalted, h.decOn, h.heldPort,
    h.waitRange, h.ringRd, h.poolWf, h.poolRange, h.ringWf, h.ringRange, h.ringWritten⟩

/-- A halted block (vector P-1). -/
def sHalted : State := { State.reset with halted := true, fatalCode := .doubleRelease }

/-- Both ports wait, port 0 with its last tick left; the words they hold back stand before a tick. -/
def sWaiting : State :=
  { State.reset with
    port := [.wait 0#4 (.ticks 1#16), .wait 1#4 .forever]
    inbox := [.command 0 0x10000000#32, .command 1 0x10000000#32, .timeoutTick] }

/-- Three entries that wrap round the end of the ring, input 0 CONFIRMED. -/
def sRing3 : State :=
  { State.reset with
    rbStore := [(0, 0x02#8), (1, 0x01#8), (3, 0x01#8)], rbRd := 3#16, rbWr := 2#16, rbCnt := 3#16
    dbSt0 := .confirmed }

/-- Both inputs one asserted sample into a press. -/
def sCandidate0 : State := { State.reset with dbSt0 := .candidate }
def sCandidate1 : State := { State.reset with dbSt1 := .candidate }
def sConfirmed1 : State := { State.reset with dbSt1 := .confirmed }

/-- Four buffers: channel 0 is full, the decoder receives into buffer 2, port 0 holds buffer 3 (vector FD-8). -/
def sFull4 : State :=
  { State.resetWith g4 with
    owner := [.queued 0#4, .queued 0#4, .dec, .held 0], ch := [[⟨0#8, 1#13⟩, ⟨1#8, 1#13⟩], []]
    decRcv := true, decH := some 2#8, decCnt := 1#13, pool := [(0, 0x61#8), (8, 0x62#8), (16, 0x63#8)] }

/-- The same between frames, with buffer 2 free. -/
def sFull4Idle : State :=
  { sFull4 with owner := [.queued 0#4, .queued 0#4, .free, .held 0], decRcv := false, decH := none, decCnt := 0#13 }

theorem witness_inv_reset : State.reset.Inv :=
  inv_of_clauses (by decide) (by decide) (by decide) (by decide) (by decide) (by decide)
    (by decide) (by decide) (by decide)
theorem witness_inv_held : sHeld.Inv :=
  inv_of_clauses (by decide) (by decide) (by decide) (by decide) (by decide) (by decide)
    (by decide) (by decide) (by decide)
theorem witness_inv_queued : sQueued.Inv :=
  inv_of_clauses (by decide) (by decide) (by decide) (by decide) (by decide) (by decide)
    (by decide) (by decide) (by decide)
theorem witness_inv_receiving : sReceiving.Inv :=
  inv_of_clauses (by decide) (by decide) (by decide) (by decide) (by decide) (by decide)
    (by decide) (by decide) (by decide)
theorem witness_inv_receiving_full : ({ sReceiving with decCnt := 8#13 } : State).Inv :=
  inv_of_clauses (by decide) (by decide) (by decide) (by decide) (by decide) (by decide)
    (by decide) (by decide) (by decide)
theorem witness_inv_waiting : sWaiting.Inv :=
  inv_of_clauses (by decide) (by decide) (by decide) (by decide) (by decide) (by decide)
    (by decide) (by decide) (by decide)
theorem witness_inv_halted : sHalted.Inv :=
  inv_of_clauses (by decide) (by decide) (by decide) (by decide) (by decide) (by decide)
    (by decide) (by decide) (by decide)
theorem witness_inv_ringFull : sRingFull.Inv :=
  inv_of_clauses (by decide) (by decide) (by decide) (by decide) (by decide) (by decide)
    (by decide) (by decide) (by decide)
theorem witness_inv_ring3 : sRing3.Inv :=
  inv_of_clauses (by decide) (by decide) (by decide) (by decide) (by decide) (by decide)
    (by decide) (by decide) (by decide)
theorem witness_inv_candidate0 : sCandidate0.Inv :=
  inv_of_clauses (by decide) (by decide) (by decide) (by decide) (by decide) (by decide)
    (by decide) (by decide) (by decide)
theorem witness_inv_candidate1 : sCandidate1.Inv :=
  inv_of_clauses (by decide) (by decide) (by decide) (by decide) (by decide) (by decide)
    (by decide) (by decide) (by decide)
theorem witness_inv_confirmed1 : sConfirmed1.Inv :=
  inv_of_clauses (by decide) (by decide) (by decide) (by decide) (by decide) (by decide)
    (by decide) (by decide) (by decide)
theorem witness_inv_full4 : sFull4.Inv :=
  inv_of_clauses (by decide) (by decide) (by decide) (by decide) (by decide) (by decide)
    (by decide) (by decide) (by decide)
theorem witness_inv_full4Idle : sFull4Idle.Inv :=
  inv_of_clauses (by decide) (by decide) (by decide) (by decide) (by decide) (by decide)
    (by decide) (by decide) (by decide)

/-- Port 1 is the lowest port waiting on channel 1. -/
theorem witness_lowestWaiter : LowestWaiter sWaiter 1#4 1 := State.waiter_some_iff.mp (by decide)
/-- Port 0 is the lowest port waiting on channel 0. -/
theorem witness_lowestWaiter_frame :
    LowestWaiter { sReceiving with port := [.wait 0#4 .forever, .wait 0#4 .forever] } 0#4 0 :=
  State.waiter_some_iff.mp (by decide)

theorem witness_EncodeOfDecodeIsTheStimulus :
    decode (.command 0 0x600003FF#32) = .instr (.bufWr 0 0#8 3#12 0xFF#8) := by decide

theorem witness_StepRunsTheDecodedStimulus :
    let s := { sWaiting with port := [.wait 0#4 .forever, .idle] }
    s.cfg.legal = true ∧
      s.inbox = [.command 0 0x10000000#32] ++ .command 1 0x10000000#32 :: [.timeoutTick] ∧
      (∀ x ∈ [Stimulus.command 0 0x10000000#32], s.canTake x = false) ∧
      s.canTake (.command 1 0x10000000#32) = true ∧
      decode (.command 1 0x10000000#32) = .instr (.acquire 1) := by decide

theorem witness_IllegalWordIsAnsweredIllegal :
    let s := { sHalted with inbox := [Stimulus.command 1 0x00000000#32] }
    s.cfg.legal = true ∧ s.port[1]? = some .idle ∧
      (∀ r ∈ commandRows, 0x00000000#32 &&& r.mask ≠ r.bits) ∧
      (∀ r ∈ commandRows, 0x90000000#32 &&& r.mask ≠ r.bits) ∧
      (∀ r ∈ commandRows, 0x70000001#32 &&& r.mask ≠ r.bits) ∧
      decode (.command 1 0x20200000#32) = .instr (.release 1 2#8) ∧ (Instr.release 1 2#8).fieldsLegal s.cfg = false := by
  decide

/-- Each range of 00_scope.md R6 just outside an end of it. -/
theorem witness_IllegalParametersAreRefused :
    ({ g2 with END := 0x23#8 }.START = { g2 with END := 0x23#8 }.END) ∧
      ({ g2 with EV1 := 0x01#8 }.EV0 = { g2 with EV1 := 0x01#8 }.EV1) ∧
      { g2 with RB_CONSUMER := 2 }.NPORT ≤ { g2 with RB_CONSUMER := 2 }.RB_CONSUMER ∧ { g2 with N := 0 }.N < 1 ∧
      256 < { g2 with N := 257 }.N ∧ { g2 with S := 0 }.S < 1 ∧ 4096 < { g2 with S := 4097 }.S ∧
      { g2 with NCH := 0 }.NCH < 1 ∧ 16 < { g2 with NCH := 17 }.NCH ∧
      { g2 with NCH := 3 }.DEPTH.length ≠ { g2 with NCH := 3 }.NCH ∧
      (∃ d ∈ { g2 with DEPTH := [2, 0] }.DEPTH, d < 1) ∧ (∃ d ∈ { g2 with DEPTH := [65536, 2] }.DEPTH, 65535 < d) ∧
      { g2 with C := 0 }.C < 1 ∧ 65535 < { g2 with C := 65536 }.C ∧ { g2 with NPORT := 0 }.NPORT < 1 ∧
      16 < { g2 with NPORT := 17 }.NPORT := by decide

theorem witness_NoStimulusNoChange :
    let s := { sWaiting with inbox := [.command 0 0x10000000#32] }
    s.cfg.legal = true ∧ ∀ x ∈ s.inbox, s.canTake x = false := by decide

theorem witness_WaitingPortsWordsAreHeld :
    sWaiting.port[1]? = some (.wait 1#4 .forever) ∧ ∃ t, step sWaiting = .next t := ⟨rfl, _, rfl⟩

theorem witness_EachAgentsStimuliKeepTheirOrder : ∃ t, step sWaiting = .next t ∧ t.inbox ≠ sWaiting.inbox :=
  ⟨_, rfl, by decide⟩

theorem witness_ParametersNeverChange : ∃ t, step sWaiting = .next t := ⟨_, rfl⟩

/-- The last buffer and the last port of a build. -/
theorem witness_PowerOnState : (1#8 : Handle).toNat < g2.N ∧ 1 < g2.NPORT := by decide

theorem witness_ResetMeetsTheInvariant : g2.legal = true ∧ g4.legal = true := by decide

theorem witness_EveryStepKeepsTheInvariant :
    ∃ s t : State, s.Inv ∧ step s = .next t ∧ t.port = [.idle, .wait 1#4 .forever] :=
  ⟨sWaiting, _, witness_inv_waiting, rfl, by decide⟩

theorem witness_EveryStepCompletes : ({ sReceiving with inbox := [.rx 0x24#8] } : State).Inv :=
  inv_withInbox witness_inv_receiving _

theorem witness_OutOfRangeFieldsAreIllegal :
    (Instr.release 0 2#8).port? = some 0 ∧ State.reset.port[0]? = some .idle ∧
      (Instr.release 0 2#8).fieldsLegal State.reset.cfg = false ∧ g2.N ≤ (2#8 : Handle).toNat ∧
      g2.NCH ≤ (2#4 : ChanId).toNat ∧ g2.S ≤ (8#12 : BitVec 12).toNat ∧ g2.S < (9#16 : BitVec 16).toNat := by decide

theorem witness_HaltedBlockServesOnlyStatusReads :
    sHalted.Inv ∧ sHalted.halted = true ∧ sHalted.port[1]? = some .idle ∧
      (Instr.release 1 2#8).port? = some 1 ∧ (Instr.release 1 2#8).fieldsLegal sHalted.cfg = false ∧
      (Instr.acquire 1).port? = some 1 ∧ (Instr.acquire 1).fieldsLegal sHalted.cfg = true ∧
      (∀ reg, Instr.acquire 1 ≠ .rdstat 1 reg) ∧
      (Instr.rdstat 1 0x11#8).port? = some 1 ∧ (Instr.rdstat 1 0x11#8).fieldsLegal sHalted.cfg = true := by
  refine ⟨witness_inv_halted, rfl, rfl, rfl, rfl, rfl, rfl, fun _ => by simp, rfl, rfl⟩

/-- Each line of the table, and a step that enters the halt. -/
theorem witness_ViolationsAndNothingElseEnterTheHalt :
    (Ready (.release 0 1#8) 0 sHeld ∧ Violates sHeld (.release 0 1#8) 0 .doubleRelease 1#8) ∧
      (Ready (.release 1 0#8) 1 sHeld ∧ Violates sHeld (.release 1 0#8) 1 .notOwner 0#8) ∧
      (Ready (.post 0 1#4 1#8 8#16) 0 sHeld ∧ Violates sHeld (.post 0 1#4 1#8 8#16) 0 .notOwner 1#8) ∧
      (Ready (.bufRd 1 0#8 7#12) 1 sHeld ∧ Violates sHeld (.bufRd 1 0#8 7#12) 1 .notOwner 0#8) ∧
      (Ready (.bufWr 0 0#8 7#12 0xFF#8) 0 sReceiving ∧
        Violates sReceiving (.bufWr 0 0#8 7#12 0xFF#8) 0 .notOwner 0#8) ∧
      (Ready (.rbGet 1) 1 sHeld ∧ Violates sHeld (.rbGet 1) 1 .secondConsumer 0#8) ∧
      sHeld.halted = false ∧ ∃ t, exec (.rbGet 1) sHeld = .next t ∧ t.halted = true := by
  refine ⟨⟨by unfold Ready; decide, .inl ⟨rfl, by decide, rfl⟩⟩,
    ⟨by unfold Ready; decide, .inr (.inl ⟨rfl, by decide, by decide, rfl⟩)⟩,
    ⟨by unfold Ready; decide, .inr (.inr (.inl ⟨.inl ⟨_, _, rfl⟩, by decide, rfl⟩))⟩,
    ⟨by unfold Ready; decide, .inr (.inr (.inl ⟨.inr (.inl ⟨_, rfl⟩), by decide, rfl⟩))⟩,
    ⟨by unfold Ready; decide, .inr (.inr (.inl ⟨.inr (.inr ⟨_, _, rfl⟩), by decide, rfl⟩))⟩,
    ⟨by unfold Ready; decide, .inr (.inr (.inr ⟨rfl, by decide, rfl, rfl⟩))⟩, rfl, _, rfl, by decide⟩

theorem witness_HaltIsPrecise :
    ∃ t, step { sHeld with inbox := [.command 1 0x20000000#32] } = .next t ∧ t.halted = true := ⟨_, rfl, by decide⟩

theorem witness_OnlyResetLeavesTheHalt :
    sHalted.halted = true ∧ (∃ t, step { sHalted with inbox := [.command 1 0x10000000#32] } = .next t) ∧
      ∃ t, step { sHalted with inbox := [.resetLine] } = .next t := ⟨rfl, ⟨_, rfl⟩, _, rfl⟩

theorem witness_AcquireTakesTheLowestFreeBuffer :
    (Ready (.acquire 0) 0 sHeld ∧ LowestFree sHeld 1#8) ∧
      (Ready (.acquire 1) 1 { sHeld with owner := [.held 0, .held 0] } ∧
        NoneFree { sHeld with owner := [.held 0, .held 0] }) := by
  unfold Ready LowestFree NoneFree; decide

/-- The holder, a free buffer, and another port's. -/
theorem witness_ReleaseFreesTheHoldersBufferOrHalts :
    (Ready (.release 0 0#8) 0 sHeld ∧ sHeld.ownerOf 0#8 = some (.held 0)) ∧
      (Ready (.release 0 1#8) 0 sHeld ∧ sHeld.ownerOf 1#8 = some .free) ∧
      (Ready (.release 1 0#8) 1 sHeld ∧ sHeld.ownerOf 0#8 ≠ some .free ∧ sHeld.ownerOf 0#8 ≠ some (.held 1)) := by
  unfold Ready; decide

theorem witness_PostDeliversAnswersFullOrHalts :
    (sWaiter.cfg.legal = true ∧ Ready (.post 0 1#4 0#8 8#16) 0 sWaiter ∧ sWaiter.ownerOf 0#8 = some (.held 0) ∧
        LowestWaiter sWaiter 1#4 1) ∧
      (sHeld.cfg.legal = true ∧ Ready (.post 0 1#4 0#8 0#16) 0 sHeld ∧ sHeld.ownerOf 0#8 = some (.held 0) ∧
        NoWaiter sHeld 1#4 ∧ HasRoom sHeld 1#4) ∧
      (sFull4.cfg.legal = true ∧ Ready (.post 0 0#4 3#8 8#16) 0 sFull4 ∧ sFull4.ownerOf 3#8 = some (.held 0) ∧
        NoWaiter sFull4 0#4 ∧ ¬ HasRoom sFull4 0#4) ∧
      (sHeld.cfg.legal = true ∧ Ready (.post 0 1#4 1#8 8#16) 0 sHeld ∧ sHeld.ownerOf 1#8 ≠ some (.held 0)) := by
  refine ⟨⟨by decide, ?_, by decide, witness_lowestWaiter⟩, ⟨by decide, ?_, by decide, ?_, ?_⟩,
    ⟨by decide, ?_, by decide, ?_, ?_⟩, by unfold Ready; decide⟩
  · unfold Ready; decide
  · unfold Ready; decide
  · exact State.waiter_none_iff.mp (by decide)
  · unfold HasRoom; decide
  · unfold Ready; decide
  · exact State.waiter_none_iff.mp (by decide)
  · unfold HasRoom; decide

theorem witness_RecvTakesTheOldestOrWaits :
    (Ready (.recv 1 0#4 5#16) 1 sQueued ∧ sQueued.chan 0#4 = [⟨0#8, 5#13⟩]) ∧
      (Ready (.recv 1 1#4 0#16) 1 sQueued ∧ sQueued.chan 1#4 = [] ∧ (0#16 : BitVec 16) = 0#16) ∧
      (Ready (.recv 1 1#4 0xFFFF#16) 1 sQueued ∧ sQueued.chan 1#4 = [] ∧ (0xFFFF#16 : BitVec 16) ≠ 0#16) := by
  unfold Ready; decide

/-- Port 1 waits on channel 1, with one TICK left. -/
def sLastTick : State := { sHeld with port := [.idle, .wait 1#4 (.ticks 1#16)] }

theorem witness_inv_waiter : sWaiter.Inv :=
  inv_of_clauses (by decide) (by decide) (by decide) (by decide) (by decide) (by decide)
    (by decide) (by decide) (by decide)
theorem witness_inv_lastTick : sLastTick.Inv :=
  inv_of_clauses (by decide) (by decide) (by decide) (by decide) (by decide) (by decide)
    (by decide) (by decide) (by decide)

/-- A step that leaves the wait as it is, a delivery, the last tick, the halt and RESET. -/
theorem witness_WaitingRecvEndsInOneOfThreeWays :
    (sWaiter.Inv ∧ sWaiter.port[1]? = some (.wait 1#4 .forever) ∧
      (∃ t, step { sWaiter with inbox := [.timeoutTick] } = .next t ∧ t.port = sWaiter.port) ∧
      (∃ t, step { sWaiter with inbox := [.command 0 0x30010003#32] } = .next t ∧ t.ownerOf 0#8 = some (.held 1)) ∧
      (∃ t, step { sWaiter with inbox := [.command 0 0x20100000#32] } = .next t ∧ t.halted = true) ∧
      ∃ t, step { sWaiter with inbox := [.resetLine] } = .next t ∧ t.port = [.idle, .idle]) ∧
    sLastTick.Inv ∧ sLastTick.port[1]? = some (.wait 1#4 (.ticks 1#16)) ∧
      ∃ t, step { sLastTick with inbox := [.timeoutTick] } = .next t ∧ t.port = [.idle, .idle] :=
  ⟨⟨witness_inv_waiter, rfl, ⟨_, rfl, by decide⟩, ⟨_, rfl, by decide⟩, ⟨_, rfl, by decide⟩, _, rfl, by decide⟩,
    witness_inv_lastTick, rfl, _, rfl, by decide⟩

/-- Each kind of port: idle, FOREVER, a count of 1, a greater count. -/
theorem witness_TickCountsDownEveryTimeout :
    let s := { State.reset with
      port := [.idle, .wait 0#4 .forever, .wait 1#4 (.ticks 1#16), .wait 1#4 (.ticks 0xFFFF#16)] }
    s.halted = false ∧ s.port[0]? = some .idle ∧ s.port[1]? = some (.wait 0#4 .forever) ∧
      s.port[2]? = some (.wait 1#4 (.ticks 1#16)) ∧ s.port[3]? = some (.wait 1#4 (.ticks 0xFFFF#16)) ∧
      (0xFFFF#16 : BitVec 16) ≠ 1#16 ∧ ∀ c, s.port[1]? ≠ some (.wait c (.ticks 1#16)) :=
  ⟨rfl, rfl, rfl, rfl, rfl, by decide, fun c => by simp⟩

theorem witness_RecvTimesOutAtItsLastTick :
    Ready (.recv 0 1#4 1#16) 0 State.reset ∧ Ready (.recv 0 1#4 2#16) 0 State.reset ∧ State.reset.chan 1#4 = [] ∧
      (1#16 : BitVec 16) ≠ 0#16 ∧ 1 < (2#16 : BitVec 16).toNat := by unfold Ready; decide

theorem witness_BufRdReadsTheHoldersByteOrHalts :
    (Ready (.bufRd 0 0#8 7#12) 0 sHeld ∧ sHeld.ownerOf 0#8 = some (.held 0)) ∧
      (Ready (.bufRd 0 1#8 0#12) 0 sHeld ∧ sHeld.ownerOf 1#8 ≠ some (.held 0)) := by unfold Ready; decide

theorem witness_BufWrWritesTheHoldersByteOrHalts :
    (Ready (.bufWr 0 0#8 7#12 0xFF#8) 0 sHeld ∧ sHeld.ownerOf 0#8 = some (.held 0)) ∧
      (Ready (.bufWr 1 0#8 0#12 0x23#8) 1 sHeld ∧ sHeld.ownerOf 0#8 ≠ some (.held 1)) := by unfold Ready; decide

/-- The same byte, and the byte after it across the edge of two held buffers. -/
theorem witness_BufRdReturnsWhatBufWrWrote :
    let s := { sHeld with owner := [.held 0, .held 0] }
    Ready (.bufWr 0 0#8 7#12 0xFF#8) 0 s ∧ s.ownerOf 0#8 = some (.held 0) ∧ Ready (.bufRd 0 0#8 7#12) 0 s ∧
      Ready (.bufRd 0 1#8 0#12) 0 s ∧ s.ownerOf 1#8 = some (.held 0) ∧
      ¬ ((1#8 : Handle) = 0#8 ∧ (0#12 : BitVec 12) = 7#12) := by unfold Ready; decide

theorem witness_RbGetTakesTheOldestEntryOrHalts :
    (State.reset.cfg.legal = true ∧ Ready (.rbGet 0) 0 State.reset ∧ 0 = State.reset.cfg.RB_CONSUMER ∧
        State.reset.rbCnt = 0#16) ∧
      (sRing3.cfg.legal = true ∧ Ready (.rbGet 0) 0 sRing3 ∧ 0 = sRing3.cfg.RB_CONSUMER ∧ sRing3.rbCnt ≠ 0#16) ∧
      (sRing3.cfg.legal = true ∧ Ready (.rbGet 1) 1 sRing3 ∧ 1 ≠ sRing3.cfg.RB_CONSUMER) := by
  unfold Ready; decide

/-- One free slot, and both inputs push in one SCAN (the corner case of 42_debounce.md R220). -/
def sRing3Both : State := { sRing3 with dbSt1 := .candidate }

/-- A queued entry, an empty ring, two pushes for one free slot, and a full ring. -/
theorem witness_RingIsFirstInFirstOut :
    (sRing3.Inv ∧ sRing3.halted = false ∧ sRing3.ringEntries = 0x01#8 :: [0x02#8, 0x01#8] ∧
        sRing3.port[sRing3.cfg.RB_CONSUMER]? = some .idle) ∧
      (State.reset.Inv ∧ State.reset.halted = false ∧ State.reset.ringEntries = [] ∧
        State.reset.port[State.reset.cfg.RB_CONSUMER]? = some .idle) ∧
      (sRing3Both.Inv ∧ sRing3Both.halted = false ∧
        passes (exec (.scan false true) sRing3Both)
          (fun t => t.ringEntries == [0x01#8, 0x02#8, 0x01#8, 0x01#8] && t.dbSt1 == .confirmed) = true) ∧
      (sRingFull.Inv ∧ sRingFull.halted = false ∧ sRingFull.ringEntries.length = sRingFull.cfg.C) :=
  ⟨⟨witness_inv_ring3, by decide⟩, ⟨witness_inv_reset, by decide⟩,
    ⟨inv_of_clauses (by decide) (by decide) (by decide) (by decide) (by decide) (by decide)
      (by decide) (by decide) (by decide), by decide⟩, witness_inv_ringFull, by decide⟩

/-- Each debounce state, with room and without. -/
theorem witness_ScanStepsInput0ThenInput1 :
    State.reset.halted = false ∧ State.reset.dbSt .in0 = .idle ∧ sCandidate0.halted = false ∧
      sCandidate0.dbSt .in0 = .candidate ∧ sCandidate0.rbCnt.toNat ≠ sCandidate0.cfg.C ∧ sRingFull.halted = false ∧
      sRingFull.dbSt .in1 = .confirmed ∧ sRingFull.rbCnt.toNat = sRingFull.cfg.C := by decide

theorem witness_RefusedPushIsRetried :
    (sRingFull.Inv ∧ sRingFull.halted = false ∧ sRingFull.dbSt0 = .confirmed ∧ sRingFull.dbSt1 = .confirmed ∧
        sRingFull.rbCnt.toNat = sRingFull.cfg.C) ∧
      (sRing3.Inv ∧ sRing3.halted = false ∧ sRing3.dbSt0 = .confirmed ∧ sRing3.rbCnt.toNat < sRing3.cfg.C) ∧
      (sConfirmed1.Inv ∧ sConfirmed1.halted = false ∧ sConfirmed1.dbSt1 = .confirmed ∧
        sConfirmed1.rbCnt.toNat + 1 < sConfirmed1.cfg.C) :=
  ⟨⟨witness_inv_ringFull, by decide⟩, ⟨witness_inv_ring3, by decide⟩, witness_inv_confirmed1, by decide⟩

theorem witness_PressNeedsTwoConsecutiveSamples :
    State.reset.Inv ∧ State.reset.halted = false ∧ State.reset.dbSt0 = .idle ∧ State.reset.dbSt1 = .idle ∧
      State.reset.rbCnt.toNat < State.reset.cfg.C := ⟨witness_inv_reset, by decide⟩

/-- Nine SCANs queue four events: the ring is full at the end, the last one a first sample. -/
theorem witness_HeldInputQueuesEverySecondScan :
    State.reset.Inv ∧ State.reset.halted = false ∧ State.reset.dbSt0 = .idle ∧ State.reset.dbSt1 = .idle ∧
      State.reset.rbCnt.toNat + 9 / 2 ≤ State.reset.cfg.C := ⟨witness_inv_reset, by decide⟩

theorem witness_InputsAreIndependent :
    (sCandidate1.halted = false ∧ sCandidate1.rbCnt.toNat + 1 < sCandidate1.cfg.C) ∧
      (sRingFull.halted = false ∧ sRingFull.rbCnt.toNat = sRingFull.cfg.C ∧ sRingFull.cfg.C ≤ 65535) := by decide

theorem witness_DebounceAndRingHaveOneWriterEach :
    let s := { sRing3 with inbox := [.timeoutTick] }
    s.takeNext = some (.timeoutTick, []) ∧ (∃ t, step s = .next t) ∧ Stimulus.timeoutTick ≠ .resetLine ∧
      (∀ ts, Stimulus.timeoutTick ≠ .scanStrobe ts) ∧ ∀ p, decode .timeoutTick ≠ .instr (.rbGet p) :=
  ⟨by decide, ⟨_, rfl⟩, by simp, by simp, by simp [decode]⟩

/-- Both ends of both ranges of the register map. -/
theorem witness_RdstatReadsTheRegisterMap :
    sReceiving.Inv ∧ sReceiving.port[1]? = some .idle ∧ (0x00#8 : Byte).toNat ≤ 0x07 ∧ (0x07#8 : Byte).toNat ≤ 0x07 ∧
      (0x10 ≤ (0x10#8 : Byte).toNat ∧ (0x10#8 : Byte).toNat < 0x10 + sReceiving.cfg.NCH) ∧
      (0x10 ≤ (0x11#8 : Byte).toNat ∧ (0x11#8 : Byte).toNat < 0x10 + sReceiving.cfg.NCH) :=
  ⟨witness_inv_receiving, by decide⟩

/-- Both ends of each range outside the map. -/
theorem witness_RegistersOutsideTheMapAreIllegal :
    State.reset.cfg.legal = true ∧ State.reset.port[1]? = some .idle ∧
      (∀ r ∈ [0x08#8, 0x0F#8], 0x08 ≤ BitVec.toNat r ∧ BitVec.toNat r ≤ 0x0F) ∧
      (∀ r ∈ [0x12#8, 0x1F#8], 0x10 + g2.NCH ≤ BitVec.toNat r ∧ BitVec.toNat r < 0x20) ∧
      ∀ r ∈ [0x20#8, 0xFF#8], 0x20 ≤ BitVec.toNat r := by decide

theorem witness_StartByteStartsAFrame :
    (sHeld.halted = false ∧ sHeld.decRcv = false ∧ LowestFree sHeld 1#8) ∧
      ({ sHeld with owner := [.held 0, .held 1] }.halted = false ∧
        { sHeld with owner := [.held 0, .held 1] }.decRcv = false ∧
        NoneFree { sHeld with owner := [.held 0, .held 1] }) := by unfold LowestFree NoneFree; decide

/-- The last byte of a buffer, and a START byte inside a frame. -/
theorem witness_PayloadByteIsWritten :
    let s := { sReceiving with decCnt := 7#13 }
    s.cfg.legal = true ∧ s.halted = false ∧ s.decRcv = true ∧ s.decH = some 0#8 ∧ (0#8 : Handle).toNat < s.cfg.N ∧
      s.cfg.START ≠ s.cfg.END ∧ s.decCnt.toNat < s.cfg.S := by decide

theorem witness_OverflowAbortsTheFrame :
    let s := { sReceiving with decCnt := 8#13 }
    s.halted = false ∧ s.decRcv = true ∧ s.decH = some 0#8 ∧ s.cfg.START ≠ s.cfg.END ∧ s.decCnt.toNat = s.cfg.S := by
  decide

theorem witness_EndByteDeliversOrDropsTheFrame :
    (sReceiving.cfg.legal = true ∧ sReceiving.halted = false ∧ sReceiving.decRcv = true ∧
        sReceiving.decH = some 0#8 ∧ LowestWaiter { sReceiving with port := [.wait 0#4 .forever, .wait 0#4 .forever] } 0#4 0 ∧
        NoWaiter sReceiving 0#4 ∧ HasRoom sReceiving 0#4) ∧
      (sFull4.cfg.legal = true ∧ sFull4.halted = false ∧ sFull4.decRcv = true ∧ sFull4.decH = some 2#8 ∧
        NoWaiter sFull4 0#4 ∧ ¬ HasRoom sFull4 0#4) := by
  refine ⟨⟨by decide, by decide, by decide, by decide, witness_lowestWaiter_frame, ?_, ?_⟩,
    ⟨by decide, by decide, by decide, by decide, ?_, ?_⟩⟩
  · exact State.waiter_none_iff.mp (by decide)
  · unfold HasRoom; decide
  · exact State.waiter_none_iff.mp (by decide)
  · unfold HasRoom; decide

theorem witness_BytesBetweenFramesChangeNothing :
    State.reset.cfg.legal = true ∧ State.reset.halted = false ∧ State.reset.decRcv = false ∧
      (0x24#8 : Byte) ≠ State.reset.cfg.START ∧ (0x24#8 : Byte) = State.reset.cfg.END ∧
      (0x25#8 : Byte) ≠ State.reset.cfg.START ∧ (0x25#8 : Byte) ≠ State.reset.cfg.END := by decide

theorem witness_RxByteAlwaysCompletes : sFull4.Inv ∧ sFull4.port[0]? = some .idle := ⟨witness_inv_full4, rfl⟩

/-- Port 1 waits on channel 0. -/
def sFrameWaiter : State := { State.reset with port := [.idle, .wait 0#4 .forever] }

theorem witness_FrameIsDeliveredExactlyWhenItCan :
    -- a port waits on channel 0
    (sFrameWaiter.Inv ∧ sFrameWaiter.halted = false ∧ sFrameWaiter.decRcv = false ∧ LowestFree sFrameWaiter 0#8 ∧
        ([0x61#8] : List Byte).length ≤ sFrameWaiter.cfg.S ∧ ¬ NoWaiter sFrameWaiter 0#4) ∧
    -- exactly S bytes fit
    (State.reset.Inv ∧ State.reset.halted = false ∧ State.reset.decRcv = false ∧
        (∀ d ∈ List.replicate 8 (0x23#8 : Byte), d ≠ State.reset.cfg.END) ∧ LowestFree State.reset 0#8 ∧
        (List.replicate 8 (0x23#8 : Byte)).length ≤ State.reset.cfg.S ∧ HasRoom State.reset 0#4) ∧
      -- no buffer is free
      (({ sHeld with owner := [.held 0, .held 0] } : State).Inv ∧
        { sHeld with owner := [.held 0, .held 0] }.halted = false ∧
        { sHeld with owner := [.held 0, .held 0] }.decRcv = false ∧
        NoneFree { sHeld with owner := [.held 0, .held 0] }) ∧
      -- one byte too many, with and without a waiting port
      (State.reset.cfg.S < (List.replicate 9 (0x23#8 : Byte)).length ∧
        sFrameWaiter.cfg.S < (List.replicate 9 (0x23#8 : Byte)).length) ∧
      -- channel 0 is full
      (sFull4Idle.Inv ∧ sFull4Idle.halted = false ∧ sFull4Idle.decRcv = false ∧ LowestFree sFull4Idle 2#8 ∧
        NoWaiter sFull4Idle 0#4 ∧ ¬ HasRoom sFull4Idle 0#4) := by
  refine ⟨⟨?_, rfl, rfl, ?_, by decide, fun h => h 1 .forever rfl⟩, ⟨witness_inv_reset, ?_⟩, ⟨?_, rfl, rfl, ?_⟩,
    by decide, witness_inv_full4Idle, by decide, by decide, ?_, ?_, ?_⟩
  · exact inv_of_clauses (by decide) (by decide) (by decide) (by decide) (by decide)
      (by decide) (by decide) (by decide) (by decide)
  · unfold LowestFree; decide
  · unfold LowestFree HasRoom; decide
  · exact inv_of_clauses (by decide) (by decide) (by decide) (by decide) (by decide)
      (by decide) (by decide) (by decide) (by decide)
  · unfold NoneFree; decide
  · unfold LowestFree; decide
  · exact State.waiter_none_iff.mp (by decide)
  · unfold HasRoom; decide

/-- Each of the four ways a buffer becomes free. -/
theorem witness_BuffersAreFreedOnlyByTheirOwners :
    (sHeld.Inv ∧ sHeld.ownerOf 0#8 = some (.held 0) ∧
        ∃ t, step { sHeld with inbox := [.command 0 0x20000000#32] } = .next t ∧ t.ownerOf 0#8 = some .free) ∧
      (({ sReceiving with decCnt := 8#13 } : State).Inv ∧ sReceiving.ownerOf 0#8 = some .dec ∧
        ∃ t, step { sReceiving with decCnt := 8#13, inbox := [.rx 0x23#8] } = .next t ∧ t.ownerOf 0#8 = some .free) ∧
      (sFull4.Inv ∧ sFull4.ownerOf 2#8 = some .dec ∧
        ∃ t, step { sFull4 with inbox := [.rx 0x24#8] } = .next t ∧ t.ownerOf 2#8 = some .free) ∧
      (sQueued.Inv ∧ sQueued.ownerOf 0#8 = some (.queued 0#4) ∧
        ∃ t, step { sQueued with inbox := [.resetLine] } = .next t ∧ t.ownerOf 0#8 = some .free) :=
  ⟨⟨witness_inv_held, rfl, _, rfl, by decide⟩, ⟨witness_inv_receiving_full, rfl, _, rfl, by decide⟩,
    ⟨witness_inv_full4, rfl, _, rfl, by decide⟩, witness_inv_queued, rfl, _, rfl, by decide⟩

/-- The decoder writes into buffer 2 while port 0 holds buffer 3. -/
theorem witness_HeldBuffersAreIsolated :
    let s := { sFull4 with inbox := [.rx 0x61#8] }
    s.Inv ∧ s.takeNext = some (.rx 0x61#8, []) ∧ (∃ t, step s = .next t ∧ t.pool ≠ s.pool) ∧
      s.ownerOf 3#8 = some (.held 0) ∧ (Stimulus.rx 0x61#8).agent ≠ .host 0 ∧ Stimulus.rx 0x61#8 ≠ .resetLine ∧
      7 < s.cfg.S :=
  ⟨inv_withInbox witness_inv_full4 _, by decide, ⟨_, rfl, by decide⟩, rfl, by decide, by decide, by decide⟩

/-- A POST, a frame completion, a RECV and a RESET that change a channel. -/
theorem witness_ChannelsAreBoundedFifos :
    (sHeld.Inv ∧ ∃ t, step { sHeld with inbox := [.command 0 0x30010008#32] } = .next t ∧ t.chan 1#4 ≠ sHeld.chan 1#4) ∧
      (sReceiving.Inv ∧ ∃ t, step { sReceiving with inbox := [.rx 0x24#8] } = .next t ∧ t.chan 0#4 ≠ []) ∧
      (sQueued.Inv ∧ (∃ t, step { sQueued with inbox := [.command 1 0x40000000#32] } = .next t ∧ t.chan 0#4 = []) ∧
        ∃ t, step { sQueued with inbox := [.resetLine] } = .next t ∧ t.chan 0#4 = []) :=
  ⟨⟨witness_inv_held, _, rfl, by decide⟩, ⟨witness_inv_receiving, _, rfl, by decide⟩, witness_inv_queued,
    ⟨_, rfl, by decide⟩, _, rfl, by decide⟩

/-- A command that is answered and one that waits. -/
theorem witness_EveryCommandIsAnsweredOnce :
    (∃ t, exec (.acquire 1) sHeld = .next t) ∧ ∃ t, exec (.recv 1 1#4 0#16) sHeld = .next t := ⟨⟨_, rfl⟩, _, rfl⟩

/-- A received byte, a SCAN, a TICK and a command that halts the block. -/
theorem witness_DiagnosticsOfOneStep :
    (∃ t, exec (.rxByte 0x24#8) sHeld = .next t) ∧ (∃ t, exec (.scan false false) sRingFull = .next t) ∧
      (∃ t, exec .tick sWaiting = .next t) ∧ ∃ t, exec (.release 1 0#8) sHeld = .next t ∧ t.halted = true :=
  ⟨⟨_, rfl⟩, ⟨_, rfl⟩, ⟨_, rfl⟩, _, rfl, by decide⟩

end Sys2Proof.Tests
end

/-! PROOF. The build parameters: which sets are legal, and that no step writes one (00_scope.md R6, R7). -/

namespace Sys2Proof

/-- The ranges of 00_scope.md R6, one condition to a parameter. -/
theorem Config.legal_iff (g : Config) :
    g.legal = true ↔
      g.START ≠ g.END ∧ (1 ≤ g.N ∧ g.N ≤ 256) ∧ (1 ≤ g.S ∧ g.S ≤ 4096) ∧ (1 ≤ g.NCH ∧ g.NCH ≤ 16) ∧
        g.DEPTH.length = g.NCH ∧ (∀ d ∈ g.DEPTH, 1 ≤ d ∧ d ≤ 65535) ∧ (1 ≤ g.C ∧ g.C ≤ 65535) ∧
        (1 ≤ g.NPORT ∧ g.NPORT ≤ 16) ∧ g.RB_CONSUMER < g.NPORT ∧ g.EV0 ≠ g.EV1 := by
  simp only [Config.legal, Bool.and_eq_true, bne_iff_ne, beq_iff_eq, List.all_eq_true, decide_eq_true_eq,
    and_assoc]

end Sys2Proof

namespace Sys2Proof.Machine

/-- A step of a build outside the ranges of R6 is refused, whatever is presented (00_scope.md R7). -/
theorem step_refused_of_not_legal {s : State} (h : ¬ s.cfg.legal = true) :
    step s = .refused .illegalParameters := if_neg h

/-- Settles O13: of the three things a step can be, an instruction keeps the parameters (`exec_keepsEnv`), and
neither the idle step nor the answer to an illegal word writes them. -/
theorem parametersNeverChange : Obligations.ParametersNeverChange := by
  intro s t h
  obtain ⟨-, ⟨-, rfl⟩ | ⟨_, _, _, -, -, hexec⟩ | ⟨_, _, _, _, -, -, -, rfl⟩⟩ := step_cases h
  · rfl
  · exact (exec_keepsEnv hexec).1
  · simp

/-- Settles O9: each way of being outside the ranges denies one condition of `Config.legal_iff`. -/
theorem illegalParametersAreRefused : Obligations.IllegalParametersAreRefused := by
  intro s hout
  refine step_refused_of_not_legal fun hlegal => ?_
  obtain ⟨hframe, hN, hS, hNCH, hlen, hdepth, hC, hNPORT, hcons, hev⟩ := (Config.legal_iff s.cfg).mp hlegal
  rcases hout with h | h | h | h | h | h | h | h | h | h | ⟨d, hd, h⟩ | h
  · exact hframe h
  · exact hev h
  on_goal 9 => have hrange := hdepth d hd
  all_goals omega

end Sys2Proof.Machine

/-! PROOF. The invariants of 10_state.md R41: reset has them and every step keeps them. Each shared operation has one
lemma `State.Inv.<operation>`; there `{ hs with … }` names the clauses that read a field the operation writes, and every
other clause holds because it reads the fields of the state before. -/

namespace Sys2Proof.Machine

/-! ### The tables the invariants read -/

/-- A handle whose owner is known is in the table, so writing its owner changes that entry and no other. -/
theorem State.ownerOf_setOwner {s : State} {h : Handle} {o : Owner} (hfrom : s.ownerOf h = some o) (o' : Owner)
    (k : Handle) : (s.setOwner h o').ownerOf k = if k = h then some o' else s.ownerOf k := by
  obtain ⟨hlt, -⟩ := List.getElem?_eq_some_iff.mp hfrom
  have hnat : h.toNat = k.toNat ↔ k = h := by rw [← BitVec.toNat_inj]; exact eq_comm
  simp only [State.ownerOf, State.setOwner_owner, List.getElem?_set, hnat, hlt, if_true]

/-- A write of `owner[h]` neither gives a buffer to `x` nor takes one from it, if it is not about `x`. -/
theorem State.ownerOf_setOwner_iff {s : State} {h : Handle} {o o' x : Owner} (hfrom : s.ownerOf h = some o)
    (ho : o ≠ x) (ho' : o' ≠ x) (k : Handle) : (s.setOwner h o').ownerOf k = some x ↔ s.ownerOf k = some x := by
  rw [State.ownerOf_setOwner hfrom]
  split
  · next hk => subst hk; simp [hfrom, ho, ho']
  · rfl

/-- Writing a channel the build has changes that channel and no other. -/
theorem State.chan_setChan {s : State} {c : ChanId} (hc : c.toNat < s.ch.length) (ms : List Msg) (d : ChanId) :
    (s.setChan c ms).chan d = if d = c then ms else s.chan d := by
  have hnat : c.toNat = d.toNat ↔ d = c := by rw [← BitVec.toNat_inj]; exact eq_comm
  simp only [State.chan, State.setChan_ch, List.getD_eq_getElem?_getD, List.getElem?_set, hnat, hc, if_true]
  split <;> rfl

theorem State.chan_eq_getElem {s : State} {c : ChanId} (hc : c.toNat < s.ch.length) : s.chan c = s.ch[c.toNat] := by
  simp [State.chan, hc]

/-- A channel that holds a message is one the build has. -/
theorem State.chan_lt_of_ne_nil {s : State} {c : ChanId} (h : s.chan c ≠ []) : c.toNat < s.ch.length := by
  by_contra hge
  exact h (by simp [State.chan, Nat.le_of_not_lt hge])

/-- A channel with room is one the build has. -/
theorem chan_lt_of_depth_pos {g : Config} {c : ChanId} (h : 0 < g.depth c) : c.toNat < g.DEPTH.length := by
  by_contra hge
  simp [Config.depth, Nat.le_of_not_lt hge] at h

/-- Replacing one list of a list of lists trades its elements for the new ones. -/
theorem flatten_set_perm {α : Type} {ls : List (List α)} {i : Nat} (hi : i < ls.length) (xs : List α) :
    (ls[i] ++ (ls.set i xs).flatten).Perm (xs ++ ls.flatten) := by
  induction ls generalizing i with
  | nil => cases hi
  | cons l ls ih =>
    cases i with
    | zero => exact List.perm_append_comm_assoc l xs ls.flatten
    | succ i =>
      exact (List.perm_append_comm_assoc _ l _).trans
        (((ih (Nat.lt_of_succ_lt_succ hi)).append_left l).trans (List.perm_append_comm_assoc l xs _))

/-- The messages of all channels are those of some channel: the build has at most 16. -/
theorem State.Inv.mem_flatten {s : State} (hs : s.Inv) {m : Msg} (hm : m ∈ s.ch.flatten) : ∃ c, m ∈ s.chan c := by
  obtain ⟨ms, hms, hm⟩ := List.mem_flatten.mp hm
  obtain ⟨i, hi, rfl⟩ := List.mem_iff_getElem.mp hms
  obtain ⟨-, -, -, ⟨-, hNCH⟩, -⟩ := (Config.legal_iff s.cfg).mp hs.legal
  have hi16 : i < 16 := by have := hs.chSize; omega
  have hci : (BitVec.ofNat 4 i).toNat = i := by simpa using hi16
  exact ⟨BitVec.ofNat 4 i, by simpa [State.chan, hci, hi] using hm⟩

/-! ### Outputs and ports -/

/-- A port with a command state is one the build has. -/
theorem State.Inv.port_lt {s : State} (hs : s.Inv) {p : Nat} {ps : PortState} (hp : s.port[p]? = some ps) :
    p < s.cfg.NPORT := by
  rw [← hs.portSize]; exact (List.getElem?_eq_some_iff.mp hp).1

/-- Putting something out keeps the invariants. -/
theorem State.Inv.emit {s : State} (hs : s.Inv) (o : Output) : (s.emit o).Inv := { hs with }

/-- What a port may be in a state with the invariants: IDLE, or, in a block that is not halted, waiting within R37 on an
empty channel (10_state.md R41 items 3 and 7). -/
def State.AllowsPort (s : State) (ps : PortState) : Prop :=
  ps = .idle ∨ (s.halted = false ∧ ps.inRange s.cfg = true ∧ ∀ c, ps.waitsOn c = true → s.chan c = [])

theorem State.Inv.allowsPort {s : State} (hs : s.Inv) {ps : PortState} (hps : ps ∈ s.port) : s.AllowsPort ps := by
  cases hh : s.halted with
  | true => exact .inl (hs.haltedIdle hh ps hps)
  | false => exact .inr ⟨hh, hs.waitRange ps hps, fun c hc => hs.waitersEmpty c ⟨ps, hps, hc⟩⟩

/-- Any ports the state allows may take the place of its own. -/
theorem State.Inv.withPorts {s : State} (hs : s.Inv) {ports : List PortState} (hlen : ports.length = s.port.length)
    (hall : ∀ ps ∈ ports, s.AllowsPort ps) : State.Inv { s with port := ports } :=
  { hs with
    portSize := hlen.trans hs.portSize
    waitersEmpty := by
      rintro c ⟨ps, hps, hc⟩
      obtain rfl | ⟨-, -, hempty⟩ := hall ps hps
      · cases hc
      · exact hempty c hc
    haltedIdle := by
      intro hh ps hps
      obtain rfl | ⟨hrun, -⟩ := hall ps hps
      · rfl
      · cases hrun.symm.trans hh
    waitRange := by
      intro ps hps
      obtain rfl | ⟨-, hrange, -⟩ := hall ps hps
      · rfl
      · exact hrange }

theorem State.Inv.setPort {s : State} (hs : s.Inv) (p : Nat) {ps : PortState} (hps : s.AllowsPort ps) :
    (s.setPort p ps).Inv := by
  refine hs.withPorts List.length_set fun x hx => ?_
  obtain hx | rfl := List.mem_or_eq_of_mem_set hx
  · exact hs.allowsPort hx
  · exact hps

theorem State.Inv.respond {s : State} (hs : s.Inv) (p : Nat) (rc : Rc) (h : Handle) (c : ChanId) (v : BitVec 16) :
    (s.respond p rc h c v).Inv := (hs.setPort p (.inl rfl)).emit _

theorem State.Inv.answer {s : State} (hs : s.Inv) (p : Nat) (rc : Rc) : (s.answer p rc).Inv :=
  hs.respond p rc _ _ _

/-- A tick makes a port IDLE, or leaves it waiting on its channel within the range of R37. -/
theorem State.AllowsPort.tick {s : State} {ps : PortState} (hps : s.AllowsPort ps) : s.AllowsPort (tickPort ps).1 := by
  obtain rfl | ⟨hrun, hrange, hempty⟩ := hps
  · exact .inl rfl
  · match ps with
    | .idle => exact .inl rfl
    | .wait c .forever => exact .inr ⟨hrun, hrange, hempty⟩
    | .wait c (.ticks r) =>
      by_cases hr : r = 1#16
      · exact .inl (by simp [tickPort, hr])
      · have hleft : r - 1#16 ≠ 0#16 := fun h0 => hr (by bv_omega)
        have hwait : (tickPort (.wait c (.ticks r))).1 = .wait c (.ticks (r - 1#16)) := by simp [tickPort, hr]
        have hchan : decide (c.toNat < s.cfg.NCH) = true := (Bool.and_eq_true_iff.mp hrange).1
        rw [hwait]
        exact .inr ⟨hrun, by simp [PortState.inRange, hleft, of_decide_eq_true hchan], hempty⟩

theorem State.Inv.tick {s : State} (hs : s.Inv) : (s.sweepPorts tickPort).Inv := by
  have hports : State.Inv { s with port := s.port.map fun ps => (tickPort ps).1 } := by
    refine hs.withPorts (List.length_map _) fun x hx => ?_
    obtain ⟨ps, hps, rfl⟩ := List.mem_map.mp hx
    exact (hs.allowsPort hps).tick
  exact { hports with }

/-- Every port is IDLE after fatal entry, and the record names a code (60_exceptions.md R285). -/
theorem State.Inv.takeFatal {s : State} (hs : s.Inv) {code : FatalCode} (hcode : code ≠ .none) (p : Nat)
    (h : Handle) : (takeFatal code p h s).Inv := by
  have hidle : ∀ ps ∈ (Machine.takeFatal code p h s).port, ps = .idle := by
    intro ps hps
    obtain hps | rfl := List.mem_or_eq_of_mem_set hps
    · obtain ⟨_ | _, -, rfl⟩ := List.mem_map.mp hps <;> rfl
    · rfl
  have hports := hs.withPorts (ports := (Machine.takeFatal code p h s).port) (by simp) fun ps hps => .inl (hidle ps hps)
  exact { hports with haltedIdle := fun _ => hidle, record := nofun, recordHalted := fun _ => hcode }

/-! ### Buffers and channels -/

/-- An owner that no other table speaks of: no agent, or an existing port (20_memory.md R88). -/
def Owner.Loose (g : Config) : Owner → Prop
  | .free => True
  | .held p => p < g.NPORT
  | .dec | .queued _ => False

theorem Owner.loose_free {g : Config} : Owner.free.Loose g := trivial

theorem Owner.loose_held {g : Config} {p : Nat} : (Owner.held p).Loose g ↔ p < g.NPORT := Iff.rfl

theorem Owner.Loose.ne_dec {g : Config} {o : Owner} (ho : o.Loose g) : o ≠ .dec := by
  rintro rfl; exact ho

theorem Owner.Loose.ne_queued {g : Config} {o : Owner} (ho : o.Loose g) (c : ChanId) : o ≠ .queued c := by
  rintro rfl; exact ho

theorem Owner.Loose.lt_of_eq_held {g : Config} {o : Owner} (ho : o.Loose g) {p : Nat} (hp : o = .held p) :
    p < g.NPORT := by
  subst hp; exact Owner.loose_held.mp ho

theorem State.holds_iff {s : State} {p : Nat} {h : Handle} : s.holds p h = true ↔ s.ownerOf h = some (.held p) :=
  beq_iff_eq

/-- No holder comes in by a write of `owner[h]` but the one written. -/
theorem State.Inv.heldPort_setOwner {s : State} (hs : s.Inv) {h : Handle} {o o' : Owner} (hfrom : s.ownerOf h = some o)
    (ho' : ∀ p, o' = .held p → p < s.cfg.NPORT) (k : Handle) (p : Nat)
    (hk : (s.setOwner h o').ownerOf k = some (.held p)) : p < s.cfg.NPORT := by
  rw [State.ownerOf_setOwner hfrom] at hk
  split at hk
  · exact ho' p (Option.some.inj hk)
  · exact hs.heldPort k p hk

/-- A loose buffer may change hands. -/
theorem State.Inv.setOwner {s : State} (hs : s.Inv) {h : Handle} {o o' : Owner} (hfrom : s.ownerOf h = some o)
    (ho : o.Loose s.cfg) (ho' : o'.Loose s.cfg) : (s.setOwner h o').Inv :=
  { hs with
    ownerSize := List.length_set.trans hs.ownerSize
    decOwner := fun k => (State.ownerOf_setOwner_iff hfrom ho.ne_dec ho'.ne_dec k).trans (hs.decOwner k)
    queued := fun k c =>
      (State.ownerOf_setOwner_iff hfrom (ho.ne_queued c) (ho'.ne_queued c) k).trans (hs.queued k c)
    heldPort := hs.heldPort_setOwner hfrom fun _ => ho'.lt_of_eq_held }

/-- The decoder takes buffer `h` and starts to receive (40_frame_decoder.md R141). -/
def State.startFrame (s : State) (h : Handle) : State :=
  { s.setOwner h .dec with decH := some h, decRcv := true, decCnt := 0#13 }

/-- The decoder gives buffer `h` back and stops receiving (40_frame_decoder.md R143, R144). -/
def State.dropFrame (s : State) (h : Handle) : State := (s.setOwner h .free).decIdle

theorem State.Inv.startFrame {s : State} (hs : s.Inv) (hoff : s.decRcv = false) {h : Handle}
    (hfree : s.ownerOf h = some .free) : (s.startFrame h).Inv :=
  { hs with
    ownerSize := List.length_set.trans hs.ownerSize
    decOwner := by
      intro k
      have hnone : s.ownerOf k ≠ some .dec := by simp [hs.decOwner k, hoff]
      have howner : (s.startFrame h).ownerOf k = if k = h then some .dec else s.ownerOf k :=
        State.ownerOf_setOwner hfree .dec k
      rw [howner]
      by_cases hk : k = h
      · simp [State.startFrame, hk]
      · simp [State.startFrame, hk, hnone, Ne.symm hk]
    queued := fun k c => (State.ownerOf_setOwner_iff hfree (by nofun) (by nofun) k).trans (hs.queued k c)
    decCap := Nat.zero_le _
    decOff := nofun
    decOn := fun _ => nofun
    heldPort := hs.heldPort_setOwner hfree nofun }

theorem State.Inv.dropFrame {s : State} (hs : s.Inv) {h : Handle} (hdec : s.ownerOf h = some .dec) :
    (s.dropFrame h).Inv :=
  { hs with
    ownerSize := List.length_set.trans hs.ownerSize
    decOwner := by
      intro k
      have howner : (s.dropFrame h).ownerOf k = if k = h then some .free else s.ownerOf k :=
        State.ownerOf_setOwner hdec .free k
      have honly : s.ownerOf k = some .dec → k = h := by
        intro hk
        obtain ⟨-, hdecK⟩ := (hs.decOwner k).mp hk
        obtain ⟨-, hdecH⟩ := (hs.decOwner h).mp hdec
        exact Option.some.inj (hdecK.symm.trans hdecH)
      rw [howner]
      refine iff_of_false ?_ (fun hrcv => Bool.noConfusion hrcv.1)
      split
      · nofun
      · next hk => exact fun hkd => hk (honly hkd)
    queued := fun k c => (State.ownerOf_setOwner_iff hdec (by nofun) (by nofun) k).trans (hs.queued k c)
    decCap := Nat.zero_le _
    decOff := fun _ => ⟨rfl, rfl⟩
    decOn := nofun
    heldPort := hs.heldPort_setOwner hdec nofun }

/-- No channel holds a message of a loose buffer. -/
theorem State.Inv.not_mem_chan_of_loose {s : State} (hs : s.Inv) {h : Handle} {o : Owner} (hfrom : s.ownerOf h = some o)
    (ho : o.Loose s.cfg) (c : ChanId) : ¬ ∃ m ∈ s.chan c, m.h = h := fun hm =>
  ho.ne_queued c (Option.some.inj (hfrom.symm.trans ((hs.queued h c).mpr hm)))

/-- `owner[h] <- QUEUED(c)` with `(h, len)` put at the tail of `ch[c]` (41_pool_channel.md R172). -/
def State.enqueue (s : State) (c : ChanId) (h : Handle) (len : MsgLen) : State :=
  (s.setChan c (s.chan c ++ [⟨h, len⟩])).setOwner h (.queued c)

/-- A loose buffer may join a channel that has room and no waiting port. -/
theorem State.Inv.enqueue {s : State} (hs : s.Inv) {c : ChanId} {h : Handle} {len : MsgLen} {o : Owner}
    (hfrom : s.ownerOf h = some o) (ho : o.Loose s.cfg) (hlen : len.toNat ≤ s.cfg.S)
    (hroom : (s.chan c).length < s.cfg.depth c) (hwait : s.waiter c = none) : (s.enqueue c h len).Inv := by
  have hc : c.toNat < s.ch.length := by
    obtain ⟨-, -, -, -, hDEPTH, -⟩ := (Config.legal_iff s.cfg).mp hs.legal
    rw [hs.chSize, ← hDEPTH]
    exact chan_lt_of_depth_pos (Nat.zero_lt_of_lt hroom)
  have hchan (d : ChanId) : (s.enqueue c h len).chan d = if d = c then s.chan c ++ [⟨h, len⟩] else s.chan d :=
    State.chan_setChan hc _ d
  have howner (k : Handle) : (s.enqueue c h len).ownerOf k = if k = h then some (.queued c) else s.ownerOf k :=
    State.ownerOf_setOwner hfrom (.queued c) k
  have hnew : h ∉ s.ch.flatten.map Msg.h := by
    intro hm
    obtain ⟨m, hm, hmh⟩ := List.mem_map.mp hm
    obtain ⟨d, hd⟩ := hs.mem_flatten hm
    exact hs.not_mem_chan_of_loose hfrom ho d ⟨m, hd, hmh⟩
  have hperm : (s.enqueue c h len).ch.flatten.Perm (⟨h, len⟩ :: s.ch.flatten) := by
    have hset := flatten_set_perm hc (s.chan c ++ [⟨h, len⟩])
    rw [← State.chan_eq_getElem hc, List.append_assoc] at hset
    exact (List.perm_append_left_iff _).mp hset
  exact
    { hs with
      ownerSize := List.length_set.trans hs.ownerSize
      chSize := List.length_set.trans hs.chSize
      decOwner := fun k => (State.ownerOf_setOwner_iff hfrom ho.ne_dec (by nofun) k).trans (hs.decOwner k)
      queued := by
        intro k d
        rw [howner, hchan]
        by_cases hd : d = c
        · subst hd
          by_cases hk : k = h
          · simp [hk]
          · simp [hk, Ne.symm hk, or_and_right, exists_or, hs.queued]
        · by_cases hk : k = h
          · simpa [hk, hd, Ne.symm hd] using hs.not_mem_chan_of_loose hfrom ho d
          · simpa [hk, hd] using hs.queued k d
      distinct := (hperm.map Msg.h).nodup_iff.mpr (List.nodup_cons.mpr ⟨hnew, hs.distinct⟩)
      waitersEmpty := by
        rintro d ⟨ps, hps, hd⟩
        have hne : d ≠ c := by
          rintro rfl
          cases hd.symm.trans (List.findIdx?_eq_none_iff.mp hwait ps hps)
        rw [hchan, if_neg hne]
        exact hs.waitersEmpty d ⟨ps, hps, hd⟩
      chanCap := by
        intro d
        rw [hchan]
        split
        · next hd => subst hd; rw [List.length_append]; exact hroom
        · exact hs.chanCap d
      msgCap := by
        intro d m hm
        rw [hchan] at hm
        split at hm
        · obtain hm | hm := List.mem_append.mp hm
          · exact hs.msgCap c m hm
          · rw [List.mem_singleton.mp hm]; exact hlen
        · exact hs.msgCap d m hm
      heldPort := hs.heldPort_setOwner hfrom nofun }

/-- No handle is in two messages of one channel. -/
theorem State.Inv.chan_nodup {s : State} (hs : s.Inv) {c : ChanId} (hc : c.toNat < s.ch.length) :
    ((s.chan c).map Msg.h).Nodup := by
  have hmem : s.chan c ∈ s.ch := by rw [State.chan_eq_getElem hc]; exact List.getElem_mem hc
  exact hs.distinct.sublist ((List.sublist_flatten_of_mem hmem).map Msg.h)

/-- A port takes the oldest message of a channel (41_pool_channel.md R180). -/
theorem State.Inv.dequeue {s : State} (hs : s.Inv) {c : ChanId} {m : Msg} {rest : List Msg} (hm : s.chan c = m :: rest)
    {p : Nat} (hp : p < s.cfg.NPORT) : ((s.setChan c rest).setOwner m.h (.held p)).Inv := by
  have hc : c.toNat < s.ch.length := State.chan_lt_of_ne_nil (by simp [hm])
  have hfrom : s.ownerOf m.h = some (.queued c) := (hs.queued m.h c).mpr ⟨m, by simp [hm], rfl⟩
  have hchan (d : ChanId) :
      ((s.setChan c rest).setOwner m.h (.held p)).chan d = if d = c then rest else s.chan d :=
    State.chan_setChan hc rest d
  have howner (k : Handle) :
      ((s.setChan c rest).setOwner m.h (.held p)).ownerOf k = if k = m.h then some (.held p) else s.ownerOf k :=
    State.ownerOf_setOwner hfrom (.held p) k
  have hgone : m.h ∉ rest.map Msg.h := by
    have := hs.chan_nodup hc
    rw [hm] at this
    exact (List.nodup_cons.mp this).1
  have hperm : (m :: (s.ch.set c.toNat rest).flatten).Perm s.ch.flatten := by
    have hset := flatten_set_perm hc rest
    rw [← State.chan_eq_getElem hc, hm] at hset
    exact (List.perm_append_left_iff rest).mp (List.perm_middle.trans hset)
  have hsub (d : ChanId) : ∀ x ∈ ((s.setChan c rest).setOwner m.h (.held p)).chan d, x ∈ s.chan d := by
    intro x hx
    rw [hchan] at hx
    split at hx
    · next hd => subst hd; rw [hm]; exact List.mem_cons_of_mem m hx
    · exact hx
  exact
    { hs with
      ownerSize := List.length_set.trans hs.ownerSize
      chSize := List.length_set.trans hs.chSize
      decOwner := fun k => (State.ownerOf_setOwner_iff hfrom (by nofun) (by nofun) k).trans (hs.decOwner k)
      queued := by
        intro k d
        rw [howner, hchan]
        by_cases hd : d = c
        · subst hd
          by_cases hk : k = m.h
          · simpa [hk] using hgone
          · simp [hk, Ne.symm hk, hs.queued, hm]
        · by_cases hk : k = m.h
          · have hother : ¬ ∃ x ∈ s.chan d, x.h = m.h := by simp [← hs.queued, hfrom, Ne.symm hd]
            simpa [hk, hd] using hother
          · simpa [hk, hd] using hs.queued k d
      distinct := ((hperm.map Msg.h).nodup_iff.mpr hs.distinct).of_cons
      waitersEmpty := fun d hd => List.eq_nil_iff_forall_not_mem.mpr fun x hx =>
        List.eq_nil_iff_forall_not_mem.mp (hs.waitersEmpty d hd) x (hsub d x hx)
      chanCap := by
        intro d
        refine le_trans ?_ (hs.chanCap d)
        rw [hchan]
        split
        · next hd => subst hd; simp [hm]
        · exact le_rfl
      msgCap := fun d x hx => hs.msgCap d x (hsub d x hx)
      heldPort := hs.heldPort_setOwner hfrom (by rintro _ ⟨⟩; exact hp) }

/-- A delivery of a loose buffer keeps the invariants (41_pool_channel.md R172). -/
theorem State.Inv.deliver {s t : State} (hs : s.Inv) {c : ChanId} {h : Handle} {len : MsgLen} {o : Owner}
    (hfrom : s.ownerOf h = some o) (ho : o.Loose s.cfg) (hlen : len.toNat ≤ s.cfg.S)
    (ht : s.deliver c h len = some t) : t.Inv := by
  obtain ⟨q, hq, he⟩ | ⟨hwait, hroom, he⟩ | ⟨-, -, he⟩ := s.deliver_cases c h len <;> cases he.symm.trans ht
  · obtain ⟨⟨_, hwaits⟩, -⟩ := State.waiter_some_iff.mp hq
    exact (hs.setOwner hfrom ho (Owner.loose_held.mpr (hs.port_lt hwaits))).respond q _ _ _ _
  · exact hs.enqueue hfrom ho hlen hroom hwait

/-! ### Storage -/

/-- A byte written to pool storage. -/
theorem State.Inv.memWrite {s t : State} (hs : s.Inv) {a : Nat} {v : Byte} (ht : s.memWrite a v = some t) : t.Inv := by
  obtain ⟨ha, rfl, -⟩ := State.memWrite_spec ht
  exact
    { hs with
      poolWf := Memory.write_wf a v hs.poolWf
      poolRange := fun x hx => (Memory.mem_write s.pool a v hx).elim (fun e => e ▸ ha) (hs.poolRange x) }

/-- A ring index fits its register: `C` is at most 65535 (10_state.md R38). -/
theorem State.Inv.ringNext_toNat {s : State} (hs : s.Inv) (i : BitVec 16) :
    (ringNext s.cfg i).toNat = (i.toNat + 1) % s.cfg.C := by
  obtain ⟨-, -, -, -, -, -, ⟨hC1, hC⟩, -⟩ := (Config.legal_iff s.cfg).mp hs.legal
  have := Nat.mod_lt (i.toNat + 1) hC1
  rw [ringNext, BitVec.toNat_ofNat, Nat.mod_eq_of_lt]
  omega

/-- An entry put into the ring (43_ring_buffer.md R240). -/
theorem State.Inv.ringPut {s t : State} (hs : s.Inv) {v : Byte} (ht : s.ringPut v = some t) : t.Inv := by
  unfold State.ringPut at ht
  split at ht
  · cases ht
  next hfull =>
    cases ht
    obtain ⟨-, -, -, -, -, -, ⟨hC1, hC⟩, -⟩ := (Config.legal_iff s.cfg).mp hs.legal
    have hroom : s.rbCnt.toNat < s.cfg.C :=
      lt_of_le_of_ne hs.ringCap (by simpa [State.ringFull] using hfull)
    have hcnt : (s.rbCnt + 1#16).toNat = s.rbCnt.toNat + 1 := by bv_omega
    exact
      { hs with
        ringCap := hcnt.trans_le hroom
        ringWr := by
          show (ringNext s.cfg s.rbWr).toNat = (s.rbRd.toNat + (s.rbCnt + 1#16).toNat) % s.cfg.C
          rw [hs.ringNext_toNat, hs.ringWr, hcnt, Nat.mod_add_mod, Nat.add_assoc]
        ringWf := Memory.write_wf _ v hs.ringWf
        ringRange := by
          intro x hx
          obtain hx | hx := Memory.mem_write s.rbStore _ v hx
          · rw [hx, hs.ringWr]; exact Nat.mod_lt _ hC1
          · exact hs.ringRange x hx
        ringWritten := by
          intro k hk
          show (Memory.read (Memory.write s.rbStore s.rbWr.toNat v) ((s.rbRd.toNat + k) % s.cfg.C)).isSome = true
          by_cases hslot : (s.rbRd.toNat + k) % s.cfg.C = s.rbWr.toNat
          · rw [hslot, Memory.read_write_same]; rfl
          · rw [Memory.read_write_other _ _ hslot]
            have hold : k ≠ s.rbCnt.toNat := fun e => hslot (e ▸ hs.ringWr.symm)
            exact hs.ringWritten k (lt_of_le_of_ne (Nat.le_of_lt_succ (hcnt ▸ hk : k < s.rbCnt.toNat + 1)) hold) }

/-- The oldest entry taken off the ring (43_ring_buffer.md R242). -/
theorem State.Inv.ringTake {s : State} (hs : s.Inv) (hne : s.rbCnt ≠ 0#16) :
    State.Inv { s with rbRd := ringNext s.cfg s.rbRd, rbCnt := s.rbCnt - 1#16 } := by
  obtain ⟨-, -, -, -, -, -, ⟨hC1, -⟩, -⟩ := (Config.legal_iff s.cfg).mp hs.legal
  have hcnt : s.rbCnt.toNat = (s.rbCnt - 1#16).toNat + 1 := by bv_omega
  have hslot (k : Nat) : ((ringNext s.cfg s.rbRd).toNat + k) % s.cfg.C = (s.rbRd.toNat + (k + 1)) % s.cfg.C := by
    rw [hs.ringNext_toNat, Nat.mod_add_mod, Nat.add_right_comm, Nat.add_assoc]
  exact
    { hs with
      ringCap := (Nat.le_of_succ_le hcnt.ge).trans hs.ringCap
      ringWr := by rw [hslot, ← hcnt]; exact hs.ringWr
      ringRd := by rw [hs.ringNext_toNat]; exact Nat.mod_lt _ hC1
      ringWritten := by
        intro k hk
        rw [hslot]
        exact hs.ringWritten (k + 1) (by rw [hcnt]; exact Nat.succ_lt_succ hk) }

/-! ### Instructions -/

/-- The answers of the common prologue keep the invariants, so its command has to answer only for its own rule
(60_exceptions.md R290). -/
theorem State.Inv.prologue {s t : State} (hs : s.Inv) {i : Instr} {p : Nat} {body : Host.Outcome State Fault Refusal}
    (hbody : s.port[p]? = some .idle → i.fieldsLegal s.cfg = true →
      (s.halted = true → servedWhileHalted i = true) → body = .next t → t.Inv)
    (h : prologue i p s body = .next t) : t.Inv := by
  obtain ⟨-, e⟩ | ⟨_, _, -, e⟩ | ⟨-, -, e⟩ | ⟨-, -, -, -, e⟩ | ⟨hidle, hfields, hserved, e⟩ :=
    prologue_cases i p s body <;> rw [e] at h
  · cases h
  · cases h
  · cases h; exact hs.answer p _
  · cases h; exact hs.answer p _
  · exact hbody hidle hfields hserved h

/-- `Alloc()` answers a free buffer. -/
theorem State.Inv.alloc_free {s : State} (hs : s.Inv) {h : Handle} (ha : s.alloc = some h) :
    s.ownerOf h = some .free := by
  obtain ⟨-, ⟨-, hN⟩, -⟩ := (Config.legal_iff s.cfg).mp hs.legal
  exact (State.alloc_some (by rw [hs.ownerSize]; exact hN) ha).1

theorem State.Inv.execAcquire {s t : State} (hs : s.Inv) {p : Nat} (h : execAcquire p s = .next t) : t.Inv := by
  refine hs.prologue (fun hidle _ _ hbody => ?_) h
  split at hbody <;> cases hbody
  · exact hs.answer p _
  · next hd halloc =>
    have hheld := Owner.loose_held.mpr (hs.port_lt hidle)
    exact (hs.setOwner (hs.alloc_free halloc) Owner.loose_free hheld).respond p _ _ _ _

theorem State.Inv.execRelease {s t : State} (hs : s.Inv) {p : Nat} {hd : Handle} (h : execRelease p hd s = .next t) :
    t.Inv := by
  refine hs.prologue (fun hidle _ _ hbody => ?_) h
  split at hbody
  · cases hbody; exact hs.takeFatal (by nofun) p hd
  · split at hbody <;> cases hbody
    · exact hs.takeFatal (by nofun) p hd
    · next hholds =>
      have hown := State.holds_iff.mp (Bool.of_not_eq_false hholds)
      have hheld := Owner.loose_held.mpr (hs.port_lt hidle)
      exact (hs.setOwner hown hheld Owner.loose_free).answer p _

/-- A LEN field within R106 is a message length within R41 item 5: its 13 low bits are no more. -/
theorem msgLen_le_of_lenOk {g : Config} {len : BitVec 16} (hlen : g.lenOk len = true) : (msgLen len).toNat ≤ g.S := by
  have hlow : (msgLen len).toNat ≤ len.toNat := by
    rw [msgLen, BitVec.toNat_setWidth]; exact Nat.mod_le _ _
  exact hlow.trans (of_decide_eq_true hlen)

theorem State.Inv.execPost {s t : State} (hs : s.Inv) {p : Nat} {c : ChanId} {hd : Handle} {len : BitVec 16}
    (h : execPost p c hd len s = .next t) : t.Inv := by
  refine hs.prologue (fun hidle hfields _ hbody => ?_) h
  split at hbody
  · cases hbody; exact hs.takeFatal (by nofun) p hd
  next hholds =>
    have hown := State.holds_iff.mp (Bool.of_not_eq_false hholds)
    have hheld := Owner.loose_held.mpr (hs.port_lt hidle)
    have hlen := msgLen_le_of_lenOk (Bool.and_eq_true_iff.mp hfields).2
    split at hbody <;> cases hbody
    · exact hs.answer p _
    · next u hu => exact (hs.deliver hown hheld hlen hu).answer p _

theorem State.Inv.execRecv {s t : State} (hs : s.Inv) {p : Nat} {c : ChanId} {tmo : BitVec 16}
    (h : execRecv p c tmo s = .next t) : t.Inv := by
  refine hs.prologue (fun hidle hfields hserved hbody => ?_) h
  split at hbody <;> cases hbody
  · next m rest hm => exact (hs.dequeue hm (hs.port_lt hidle)).respond p _ _ _ _
  · next hempty =>
    have hrun : s.halted = false := Bool.eq_false_iff.mpr fun hh => Bool.noConfusion (hserved hh)
    have hchan : c.toNat < s.cfg.NCH := of_decide_eq_true hfields
    refine hs.setPort p (.inr ⟨hrun, ?_, fun d hd => ?_⟩)
    · unfold recvWait
      split
      · simpa [PortState.inRange] using hchan
      · next htmo => simpa [PortState.inRange, htmo] using hchan
    · have hdc : c = d := by
        unfold recvWait at hd
        split at hd <;> exact beq_iff_eq.mp hd
      exact hdc ▸ hempty

theorem State.Inv.execBufRd {s t : State} (hs : s.Inv) {p : Nat} {hd : Handle} {off : BitVec 12}
    (h : execBufRd p hd off s = .next t) : t.Inv := by
  refine hs.prologue (fun _ _ _ hbody => ?_) h
  split at hbody
  · cases hbody; exact hs.takeFatal (by nofun) p hd
  · split at hbody <;> cases hbody
    exact hs.respond p _ _ _ _

theorem State.Inv.execBufWr {s t : State} (hs : s.Inv) {p : Nat} {hd : Handle} {off : BitVec 12} {data : Byte}
    (h : execBufWr p hd off data s = .next t) : t.Inv := by
  refine hs.prologue (fun _ _ _ hbody => ?_) h
  split at hbody
  · cases hbody; exact hs.takeFatal (by nofun) p hd
  · split at hbody <;> cases hbody
    next u hu => exact (hs.memWrite hu).answer p _

theorem State.Inv.execRbGet {s t : State} (hs : s.Inv) {p : Nat} (h : execRbGet p s = .next t) : t.Inv := by
  refine hs.prologue (fun _ _ _ hbody => ?_) h
  split at hbody
  · cases hbody; exact hs.takeFatal (by nofun) p _
  · split at hbody <;> cases hbody
    · exact hs.answer p _
    · next hne => exact (hs.ringTake (by simpa [State.ringEmpty] using hne)).respond p _ _ _ _

theorem State.Inv.execRdstat {s t : State} (hs : s.Inv) {p : Nat} {reg : Byte} (h : execRdstat p reg s = .next t) :
    t.Inv := by
  refine hs.prologue (fun _ _ _ hbody => ?_) h
  split at hbody <;> cases hbody
  · exact hs.respond p _ _ _ _
  · exact hs.answer p _

theorem State.Inv.rxStart {s : State} (hs : s.Inv) (hoff : s.decRcv = false) : (rxStart s).Inv := by
  unfold Machine.rxStart
  split
  · exact hs.emit _
  · next h halloc => exact hs.startFrame hoff (hs.alloc_free halloc)

theorem State.Inv.rxPayload {s t : State} (hs : s.Inv) {h : Handle} {b : Byte} (hon : s.decRcv = true)
    (hroom : s.decCnt.toNat ≠ s.cfg.S) (ht : rxPayload h b s = .next t) : t.Inv := by
  unfold Machine.rxPayload at ht
  split at ht <;> cases ht
  next u hu =>
    obtain ⟨-, -, ⟨-, hS⟩, -⟩ := (Config.legal_iff s.cfg).mp hs.legal
    have hcap := hs.decCap
    have hcnt : (s.decCnt + 1#13).toNat = s.decCnt.toNat + 1 := by bv_omega
    have hu' := hs.memWrite hu
    obtain ⟨-, rfl, -⟩ := State.memWrite_spec hu
    exact
      { hu' with
        decCap := show (s.decCnt + 1#13).toNat ≤ s.cfg.S by omega
        decOff := fun hoff => Bool.noConfusion (hon.symm.trans hoff) }

/-- The decoder's buffer is delivered just as if the decoder had given it back first. -/
theorem State.deliver_dropFrame (s : State) (c : ChanId) (h : Handle) (len : MsgLen) :
    (s.dropFrame h).deliver c h len = (s.deliver c h len).map State.decIdle := by
  have howner (o : Owner) : (s.dropFrame h).setOwner h o = (s.setOwner h o).decIdle := by
    simp [State.dropFrame, State.setOwner, State.decIdle]
  unfold State.deliver
  rw [show (s.dropFrame h).waiter c = s.waiter c from rfl, show (s.dropFrame h).chan c = s.chan c from rfl,
    show (s.dropFrame h).cfg = s.cfg from rfl]
  cases s.waiter c with
  | some q => simp only [howner]; rfl
  | none =>
    by_cases hroom : (s.chan c).length < s.cfg.depth c
    · simp [hroom, State.dropFrame, State.setOwner, State.setChan, State.decIdle]
    · simp [hroom]

theorem State.Inv.rxEnd {s : State} (hs : s.Inv) {h : Handle} (hdec : s.ownerOf h = some .dec) : (rxEnd h s).Inv := by
  have hfree : (s.dropFrame h).ownerOf h = some .free := (State.ownerOf_setOwner hdec .free h).trans (if_pos rfl)
  unfold Machine.rxEnd
  split
  · exact (hs.dropFrame hdec).emit _
  · next t ht =>
    have hdeliver : (s.dropFrame h).deliver 0#4 h s.decCnt = some t.decIdle := by
      rw [State.deliver_dropFrame, ht]; rfl
    exact (hs.dropFrame hdec).deliver hfree Owner.loose_free hs.decCap hdeliver

theorem State.Inv.execRxByte {s t : State} (hs : s.Inv) {b : Byte} (h : execRxByte b s = .next t) : t.Inv := by
  unfold Machine.execRxByte at h
  split at h
  · cases h; exact hs
  · split at h
    · next hoff =>
      split at h
      · cases h; exact hs.rxStart hoff
      · split at h <;> cases h
        · exact hs.emit _
        · exact hs
    · next hrcv =>
      have hon := Bool.of_not_eq_false hrcv
      split at h
      · cases h
      · next hd hdecH =>
        have hdec : s.ownerOf hd = some .dec := (hs.decOwner hd).mpr ⟨hon, hdecH⟩
        split at h
        · cases h; exact hs.rxEnd hdec
        · split at h
          · cases h; exact (hs.dropFrame hdec).emit _
          · next hroom => exact hs.rxPayload hon hroom h

theorem State.Inv.setDb {s : State} (hs : s.Inv) (i : DbInput) (d : DbState) : (s.setDb i d).Inv := by
  cases i <;> exact { hs with }

theorem State.Inv.push {s : State} (hs : s.Inv) (i : DbInput) : (push i s).Inv := by
  unfold Machine.push
  split
  · next t ht => exact (hs.ringPut ht).setDb i _
  · exact (hs.setDb i _).emit _

theorem State.Inv.dbStep {s : State} (hs : s.Inv) (i : DbInput) (smp : Bool) : (dbStep i smp s).Inv := by
  unfold Machine.dbStep
  split
  · exact hs.setDb i _
  · exact hs.setDb i _
  · exact hs.push i
  · exact hs.setDb i _
  · exact hs.push i

/-- The reset state of a legal build (70_reset_and_hazards.md R320): nothing is owned, queued, waiting or stored. -/
theorem State.resetWith_inv {g : Config} (hg : g.legal = true) : (State.resetWith g).Inv := by
  have howner (h : Handle) (o : Owner) : (State.resetWith g).ownerOf h = some o → o = .free := fun ho =>
    (List.mem_replicate.mp (List.mem_of_getElem? ho)).2
  have hchan (c : ChanId) : (State.resetWith g).chan c = [] := by
    simp only [State.chan, State.resetWith, List.getD_eq_getElem?_getD, List.getElem?_replicate]
    split <;> rfl
  have hport : ∀ ps ∈ (State.resetWith g).port, ps = .idle := fun _ hps => (List.mem_replicate.mp hps).2
  obtain ⟨-, -, -, -, -, -, ⟨hC, -⟩, -⟩ := (Config.legal_iff g).mp hg
  exact
    { legal := hg
      ownerSize := List.length_replicate
      chSize := List.length_replicate
      portSize := List.length_replicate
      decOwner := fun h => iff_of_false (fun ho => Owner.noConfusion (howner h _ ho)) nofun
      queued := fun h c => iff_of_false (fun ho => Owner.noConfusion (howner h _ ho)) (by simp [hchan])
      distinct := by simp [State.resetWith]
      waitersEmpty := fun c _ => hchan c
      chanCap := fun c => by simp [hchan]
      ringCap := Nat.zero_le _
      ringWr := (Nat.zero_mod g.C).symm
      decCap := Nat.zero_le _
      msgCap := fun c => by simp [hchan]
      decOff := fun _ => ⟨rfl, rfl⟩
      haltedIdle := nofun
      record := fun _ => ⟨rfl, rfl, rfl⟩
      recordHalted := nofun
      decOn := nofun
      heldPort := fun h p ho => Owner.noConfusion (howner h _ ho)
      waitRange := fun ps hps => by rw [hport ps hps]; rfl
      ringRd := hC
      poolWf := Memory.wf_nil
      poolRange := nofun
      ringWf := Memory.wf_nil
      ringRange := nofun
      ringWritten := nofun }

/-- Every instruction keeps the invariants of 10_state.md R41. -/
theorem State.Inv.exec {s t : State} (hs : s.Inv) {i : Instr} (h : exec i s = .next t) : t.Inv := by
  cases i with
  | acquire p => exact hs.execAcquire h
  | release p hd => exact hs.execRelease h
  | post p c hd len => exact hs.execPost h
  | recv p c tmo => exact hs.execRecv h
  | bufRd p hd off => exact hs.execBufRd h
  | bufWr p hd off data => exact hs.execBufWr h
  | rbGet p => exact hs.execRbGet h
  | rdstat p reg => exact hs.execRdstat h
  | rxByte b => exact hs.execRxByte h
  | scan s0 s1 =>
    simp only [Machine.exec, execScan] at h
    split at h <;> cases h
    · exact hs
    · exact (hs.dbStep .in0 s0).dbStep .in1 s1
  | tick =>
    simp only [Machine.exec, execTick] at h
    split at h <;> cases h
    · exact hs
    · exact hs.tick
  | reset => cases h; exact { State.resetWith_inv hs.legal with }

/-- Settles O16: the reset state is empty throughout (`State.resetWith_inv`). -/
theorem resetMeetsTheInvariant : Obligations.ResetMeetsTheInvariant := fun _ hg => State.resetWith_inv hg

/-- Settles O17: of the three things a step can be, the idle step changes nothing, an instruction keeps the invariants
(`State.Inv.exec`), and so does the answer to an illegal word. -/
theorem everyStepKeepsTheInvariant : Obligations.EveryStepKeepsTheInvariant := by
  intro s t hs h
  have htaken (rest : List Stimulus) : State.Inv { s with inbox := rest } := { hs with }
  obtain ⟨-, ⟨-, rfl⟩ | ⟨_, rest, _, -, -, hexec⟩ | ⟨p, _, rest, _, -, -, -, rfl⟩⟩ := step_cases h
  · exact hs
  · exact (htaken rest).exec hexec
  · exact (htaken rest).answer p _

end Sys2Proof.Machine

/-! PROOF. One step and the stimuli (20_memory.md R84, R89 to R91): what it takes, what it leaves presented, and which
agent's stimulus an instruction is. -/

namespace Sys2Proof

/-! ### The bytes of a word on a byte-wide bus -/

/-- Byte `k` of a word, counted from the least significant. -/
theorem extractByte_toNat (w : Word) (k : Nat) : (w.extractLsb' (8 * k) 8).toNat = w.toNat / 256 ^ k % 256 := by
  rw [BitVec.extractLsb'_toNat, Nat.shiftRight_eq_div_pow, Nat.pow_mul]

/-- Four bus bytes give back the word they were cut from. -/
theorem busBytesToWord_wordToBusBytes (w : Word) : busBytesToWord (wordToBusBytes w) = some w := by
  refine congrArg some (BitVec.eq_of_getLsbD_eq fun i hi => ?_)
  simp only [BitVec.getLsbD_append, BitVec.getLsbD_extractLsb']
  interval_cases i <;> rfl

namespace Machine

/-- Settles O5: the four bytes are the word's bytes `0` to `3` in that order. -/
theorem busCarriesWordsLowByteFirst : Obligations.BusCarriesWordsLowByteFirst := by
  refine fun w => ⟨busBytesToWord_wordToBusBytes w, fun k hk => ?_⟩
  rw [← extractByte_toNat]
  interval_cases k <;> rfl

end Machine

/-! ### The agent of an instruction -/

theorem checkRow_instr {r : CommandRow} {p : Nat} {w : Word} {i j : Instr} (h : checkRow r p w i = .instr j) :
    j = i := by
  unfold checkRow at h
  split at h <;> cases h
  rfl

/-- A command word decodes to a command of the port that presents it (60_exceptions.md R296). -/
theorem decodeCommand_instr_port {p : Nat} {w : Word} {i : Instr} (h : decodeCommand p w = .instr i) :
    i.port? = some p := by
  unfold decodeCommand at h
  split at h
  case h_9 => cases h
  all_goals rw [checkRow_instr h]; rfl

/-- A command comes from its own port only. -/
theorem agent_of_decode_command {st : Stimulus} {i : Instr} {p : Nat} (h : decode st = .instr i)
    (hp : i.port? = some p) : st.agent = .host p := by
  cases st with
  | command q w => rw [Option.some.inj (hp.symm.trans (decodeCommand_instr_port h))]; rfl
  | rx b => cases h; cases hp
  | scanStrobe ts => cases h; cases hp
  | timeoutTick => cases h; cases hp
  | resetLine => cases h; cases hp

/-- An input event is the stimulus that presents it (30_encoding.md R112). -/
theorem eq_encode_of_decode_event {st : Stimulus} {i : Instr} (h : decode st = .instr i) (hp : i.port? = none) :
    st = encode i := by
  cases st with
  | command q w => cases hp.symm.trans (decodeCommand_instr_port h)
  | rx b => cases h; rfl
  | scanStrobe ts =>
    cases h
    have hbits : ∀ ts : BitVec 2, BitVec.ofBool (ts.getLsbD 1) ++ BitVec.ofBool (ts.getLsbD 0) = ts := by decide
    exact congrArg Stimulus.scanStrobe (hbits ts).symm
  | timeoutTick => cases h; rfl
  | resetLine => cases h; rfl

end Sys2Proof

namespace Sys2Proof.Machine

/-! ### The stimulus a step takes -/

/-- With no stimulus it has a step for, a legal build idles (log 9). -/
theorem step_of_takeNext_none {s : State} (hlegal : s.cfg.legal = true) (htake : s.takeNext = none) :
    step s = .next s := by
  simp only [step, stepOnce, hlegal, htake, if_true]

/-- A legal build runs what the stimulus it takes decodes to. -/
theorem step_of_takeNext_some {s : State} {st : Stimulus} {rest : List Stimulus} (hlegal : s.cfg.legal = true)
    (htake : s.takeNext = some (st, rest)) : step s = runDecoded (decode st) { s with inbox := rest } := by
  simp only [step, stepOnce, hlegal, htake, if_true]

/-- Settles O7: the stimulus behind the held ones is the one `takeNext` answers. -/
theorem stepRunsTheDecodedStimulus : Obligations.StepRunsTheDecodedStimulus := by
  intro s held after st i hlegal hinbox hheld htakable hdecode
  have htake : s.takeNext = some (st, held ++ after) :=
    takeFirst_eq_some_iff.mpr ⟨held, after, hinbox, rfl, htakable, hheld⟩
  rw [step_of_takeNext_some hlegal htake, hdecode]
  rfl

/-- Settles O10: with every stimulus held, `takeNext` answers none. -/
theorem noStimulusNoChange : Obligations.NoStimulusNoChange := fun _ hlegal hheld =>
  step_of_takeNext_none hlegal (takeFirst_eq_none_iff.mpr hheld)

/-- A step leaves the presented stimuli as they are, or takes one of them. -/
theorem step_inbox {s t : State} (h : step s = .next t) :
    t.inbox = s.inbox ∨ ∃ st, s.takeNext = some (st, t.inbox) := by
  obtain ⟨-, ⟨-, rfl⟩ | ⟨st, rest, _, htake, -, hexec⟩ | ⟨_, _, _, _, htake, -, -, rfl⟩⟩ := step_cases h
  · exact .inl rfl
  · have hinbox : t.inbox = rest := (exec_keepsEnv hexec).2
    exact .inr ⟨st, hinbox ▸ htake⟩
  · exact .inr ⟨_, htake⟩

/-- The block has a step for what an agent presents: always for an event, for a host port when it is IDLE
(70_reset_and_hazards.md R330). -/
def State.serves (s : State) : Agent → Bool
  | .host p => s.portIdle p
  | .serial | .scanStrobe | .timeoutTick | .resetLine => true

/-- Whether a stimulus can be taken is a matter of its agent alone. -/
theorem State.canTake_eq_serves (s : State) (st : Stimulus) : s.canTake st = s.serves st.agent := by
  cases st <;> rfl

/-- Settles O12: the stimuli held before the one taken are of other agents (`State.canTake_eq_serves`), so it is the
first of its own agent's, and every other agent's are untouched. -/
theorem eachAgentsStimuliKeepTheirOrder : Obligations.EachAgentsStimuliKeepTheirOrder := by
  intro s t h
  obtain hkept | ⟨st, htake⟩ := step_inbox h
  · exact ⟨.inl hkept, fun g => .inl (by rw [hkept])⟩
  · obtain ⟨held, after, hbefore, hafter, htakable, hheld⟩ := takeFirst_eq_some_iff.mp htake
    refine ⟨.inr (by simp [hbefore, hafter, Nat.add_assoc]), fun g => ?_⟩
    by_cases hg : st.agent = g
    · have hnone : held.filter (fun x => x.agent == g) = [] := by
        refine List.filter_eq_nil_iff.mpr fun x hx hxg => ?_
        have hsame : s.canTake x = s.canTake st := by
          rw [State.canTake_eq_serves, State.canTake_eq_serves, beq_iff_eq.mp hxg, hg]
        exact Bool.noConfusion ((hheld x hx).symm.trans (hsame.trans htakable))
      exact .inr ⟨st, by simp [hbefore, hafter, List.filter_append, hnone, hg]⟩
    · exact .inl (by simp [hbefore, hafter, List.filter_append, hg])

end Sys2Proof.Machine

/-! PROOF. Reading back what was written (20_memory.md R80, 41_pool_channel.md R184, R186). -/

namespace Sys2Proof.Machine

/-- Every byte of every buffer the build has is in the pool (20_memory.md R80). -/
theorem poolAddr_lt {g : Config} {h : Handle} {off : Nat} (hh : h.toNat < g.N) (hoff : off < g.S) :
    poolAddr g h off < poolBytes g :=
  calc h.toNat * g.S + off < h.toNat * g.S + g.S := Nat.add_lt_add_left hoff _
    _ = (h.toNat + 1) * g.S := (Nat.succ_mul _ _).symm
    _ ≤ g.N * g.S := Nat.mul_le_mul_right _ hh

/-- Two bytes of buffers share a pool address only when they are the same byte of the same buffer. -/
theorem poolAddr_inj {g : Config} {h h' : Handle} {off off' : Nat} (hoff : off < g.S) (hoff' : off' < g.S)
    (heq : poolAddr g h off = poolAddr g h' off') : h = h' ∧ off = off' := by
  have hS : 0 < g.S := Nat.zero_lt_of_lt hoff
  have hdiv (k : Handle) (o : Nat) (ho : o < g.S) : poolAddr g k o / g.S = k.toNat := by
    rw [poolAddr, Nat.mul_comm, Nat.mul_add_div hS, Nat.div_eq_of_lt ho, Nat.add_zero]
  have hhandle : h = h' := BitVec.eq_of_toNat_eq (by rw [← hdiv h off hoff, heq, hdiv h' off' hoff'])
  subst hhandle
  exact ⟨rfl, Nat.add_left_cancel heq⟩

theorem Ready.fields {i : Instr} {p : Nat} {s : State} (h : Ready i p s) : i.fieldsLegal s.cfg = true := h.2.1

/-- The offset of a BUF_RD or BUF_WR within R106 is one of a buffer. -/
theorem off_lt_of_fields {g : Config} {h : Handle} {off : BitVec 12}
    (hfields : (g.handleOk h && g.offOk off) = true) : off.toNat < g.S :=
  of_decide_eq_true (Bool.and_eq_true_iff.mp hfields).2

/-- The byte it names is in the pool. -/
theorem poolAddr_lt_of_fields {g : Config} {h : Handle} {off : BitVec 12}
    (hfields : (g.handleOk h && g.offOk off) = true) : poolAddr g h off.toNat < poolBytes g :=
  poolAddr_lt (of_decide_eq_true (Bool.and_eq_true_iff.mp hfields).1) (off_lt_of_fields hfields)

/-- BUF_WR by the holder writes its byte and answers OK (41_pool_channel.md R186). -/
theorem exec_bufWr_of_held {s : State} {p : Nat} {h : Handle} {off : BitVec 12} {data : Byte}
    (hready : Ready (.bufWr p h off data) p s) (hheld : s.ownerOf h = some (.held p)) :
    ∃ u, s.memWrite (poolAddr s.cfg h off.toNat) data = some u ∧
      exec (.bufWr p h off data) s = .next (u.answer p .ok) := by
  have hwrite := State.memWrite_some data (poolAddr_lt_of_fields hready.fields)
  exact ⟨_, hwrite, by simp [exec, execBufWr, prologue_ready _ hready, State.holds_iff.mpr hheld, hwrite]⟩

/-- BUF_RD by the holder answers its byte (41_pool_channel.md R184). -/
theorem exec_bufRd_of_held {s : State} {p : Nat} {h : Handle} {off : BitVec 12}
    (hready : Ready (.bufRd p h off) p s) (hheld : s.ownerOf h = some (.held p)) :
    exec (.bufRd p h off) s =
      .next (s.respond p .ok 0#8 0#4 ((s.poolByte (poolAddr s.cfg h off.toNat)).setWidth 16)) := by
  have hread := State.memRead_some (poolAddr_lt_of_fields hready.fields)
  simp [exec, execBufRd, prologue_ready _ hready, State.holds_iff.mpr hheld, hread]

/-- An answered port is ready for what it was ready for before. -/
theorem Ready.answer {i : Instr} {p : Nat} {s : State} (h : Ready i p s) (rc : Rc) : Ready i p (s.answer p rc) := by
  obtain ⟨hidle, hfields, hrun⟩ := h
  refine ⟨?_, hfields, hrun⟩
  rw [State.answer_idle rc hidle]
  exact hidle

/-- An OK answer of one byte, without handle and channel, reads as that byte (30_encoding.md R110). -/
theorem responseWord_ok_byte_toNat (b : Byte) : (responseWord .ok 0#8 0#4 (b.setWidth 16)).toNat = b.toNat := by
  have happend : (0#16 ++ b.setWidth 16).toNat = b.toNat := by
    rw [BitVec.toNat_append, BitVec.toNat_setWidth_of_le (by decide)]
    simp
  exact happend

/-- Settles O33: the write reaches the byte at its own address only (`State.memWrite_spec`), and different bytes of
buffers have different addresses (`poolAddr_inj`). -/
theorem bufRdReturnsWhatBufWrWrote : Obligations.BufRdReturnsWhatBufWrWrote := by
  intro s p h h' off off' data hwr hheld hrd hheld'
  obtain ⟨u, hwrite, hexecWr⟩ := exec_bufWr_of_held hwr hheld
  obtain ⟨-, hu, hsame, hother⟩ := State.memWrite_spec hwrite
  have hrdU : Ready (.bufRd p h' off') p u := by rw [hu]; exact hrd
  have hheldU : u.ownerOf h' = some (.held p) := by rw [hu]; exact hheld'
  have hcfg : u.cfg = s.cfg := by rw [hu]
  have htrace : u.trace = s.trace := by rw [hu]
  have hexecRd : exec (.bufRd p h' off') (u.answer p .ok) = .next ((u.answer p .ok).respond p .ok 0#8 0#4
      ((u.poolByte (poolAddr u.cfg h' off'.toNat)).setWidth 16)) :=
    exec_bufRd_of_held (hrdU.answer .ok) hheldU
  refine ⟨_, responseWord .ok 0#8 0#4 ((u.poolByte (poolAddr u.cfg h' off'.toNat)).setWidth 16),
    by simp only [execAll, hexecWr, hexecRd]; rfl, ?_, ?_, fun hne => ?_⟩
  · have hzero : responseWord .ok 0#8 0#4 0#16 = 0#32 := by decide
    simp [htrace, answersOn_append, answersOn, hzero]
  · rintro rfl rfl
    rw [responseWord_ok_byte_toNat, hcfg, hsame]
  · have haddr : poolAddr s.cfg h' off'.toNat ≠ poolAddr s.cfg h off.toNat := by
      intro heq
      obtain ⟨hh, hoff⟩ := poolAddr_inj (off_lt_of_fields hrd.fields) (off_lt_of_fields hwr.fields) heq
      exact hne ⟨hh, BitVec.eq_of_toNat_eq hoff⟩
    rw [responseWord_ok_byte_toNat, hcfg, hother _ haddr]
    rfl

end Sys2Proof.Machine

/-! PROOF. Who may touch which buffer and channel (20_memory.md R80, R82, R88): what one instruction does to the owner
table, the channels and pool storage is said once (`exec_tableStep`), and both isolation statements read it off. -/

namespace Sys2Proof.Machine

/-! ### What one instruction does to the tables -/

/-- `t` has the owner table, the channels and the pool storage of `s`. -/
def SameTables (s t : State) : Prop := t.owner = s.owner ∧ t.ch = s.ch ∧ t.pool = s.pool ∧ t.epoch = s.epoch

theorem SameTables.refl (s : State) : SameTables s s := ⟨rfl, rfl, rfl, rfl⟩

theorem SameTables.trans {s t u : State} (hst : SameTables s t) (htu : SameTables t u) : SameTables s u := by
  obtain ⟨ho, hc, hp, he⟩ := hst
  obtain ⟨ho', hc', hp', he'⟩ := htu
  exact ⟨ho'.trans ho, hc'.trans hc, hp'.trans hp, he'.trans he⟩

theorem SameTables.ownerOf {s t : State} (h : SameTables s t) (k : Handle) : t.ownerOf k = s.ownerOf k := by
  obtain ⟨ho, -⟩ := h
  simp only [State.ownerOf, ho]

theorem SameTables.chan {s t : State} (h : SameTables s t) (c : ChanId) : t.chan c = s.chan c := by
  obtain ⟨-, hc, -⟩ := h
  simp only [State.chan, hc]

theorem SameTables.poolByte {s t : State} (h : SameTables s t) (a : Nat) : t.poolByte a = s.poolByte a := by
  obtain ⟨-, -, hp, he⟩ := h
  simp only [State.poolByte, hp, he]

/-- Buffer `k` exists and is not another port's, as instruction `i` finds it (20_memory.md R88). -/
def MayUse (i : Instr) (s : State) (k : Handle) : Prop :=
  ∃ o, s.ownerOf k = some o ∧ ∀ p, o = .held p → i.port? = some p

/-- The instructions that put a message into channel `c`: a POST to it and, for channel 0, a frame's END byte
(20_memory.md R82). -/
def Sends (i : Instr) (s : State) (c : ChanId) : Prop :=
  (∃ p h len, i = .post p c h len) ∨ (i = .rxByte s.cfg.END ∧ c = 0#4)

/-- The ways an instruction `i` can take the tables of `s` to those of `t`. -/
inductive TableStep (i : Instr) (s t : State) : Prop
  /-- They stay. -/
  | kept (same : SameTables s t)
  /-- One buffer changes hands. -/
  | handed (k : Handle) (o : Owner) (may : MayUse i s k) (same : SameTables (s.setOwner k o) t)
  /-- One buffer joins a channel as its newest message. -/
  | sent (c : ChanId) (k : Handle) (len : MsgLen) (may : MayUse i s k) (sends : Sends i s c) (room : HasRoom s c)
      (same : SameTables (s.enqueue c k len) t)
  /-- A RECV takes the oldest message of its channel and is answered with it. -/
  | received (p : Nat) (c : ChanId) (tmo : BitVec 16) (m : Msg) (rest : List Msg) (recv : i = .recv p c tmo)
      (oldest : s.chan c = m :: rest) (answered : Answered s t p 0#4 m.h c (m.len.setWidth 16))
      (same : SameTables ((s.setChan c rest).setOwner m.h (.held p)) t)
  /-- One byte of one buffer is written. -/
  | written (k : Handle) (off : Nat) (b : Byte) (may : MayUse i s k) (inside : off < s.cfg.S)
      (same : SameTables { s with pool := Memory.write s.pool (poolAddr s.cfg k off) b } t)
  /-- All of them are reset. -/
  | reset (reset : i = .reset) (same : t = resetBlock s)

/-- Everything the common prologue can answer: without data by itself, or what its command's own rule answers
(60_exceptions.md R290). -/
theorem prologue_next_cases {i : Instr} {p : Nat} {s t : State} {body : Host.Outcome State Fault Refusal}
    (h : prologue i p s body = .next t) :
    (∃ rc, t = s.answer p rc) ∨ (s.port[p]? = some .idle ∧ i.fieldsLegal s.cfg = true ∧ body = .next t) := by
  obtain ⟨-, e⟩ | ⟨_, _, -, e⟩ | ⟨-, -, e⟩ | ⟨-, -, -, -, e⟩ | ⟨hidle, hfields, -, e⟩ :=
    prologue_cases i p s body <;> rw [e] at h
  · cases h
  · cases h
  · cases h; exact .inl ⟨_, rfl⟩
  · cases h; exact .inl ⟨_, rfl⟩
  · exact .inr ⟨hidle, hfields, h⟩

theorem answer_sameTables (s : State) (p : Nat) (rc : Rc) : SameTables s (s.answer p rc) := .refl s

theorem takeFatal_sameTables (code : FatalCode) (p : Nat) (h : Handle) (s : State) :
    SameTables s (takeFatal code p h s) := .refl s

/-- A command whose own rule moves the tables as they may move does so behind the prologue too. -/
theorem TableStep.prologue {i : Instr} {p : Nat} {s t : State} {body : Host.Outcome State Fault Refusal}
    (hbody : i.fieldsLegal s.cfg = true → body = .next t → TableStep i s t) (h : prologue i p s body = .next t) :
    TableStep i s t := by
  obtain ⟨rc, rfl⟩ | ⟨-, hfields, hnext⟩ := prologue_next_cases h
  · exact .kept (answer_sameTables s p rc)
  · exact hbody hfields hnext

/-- A delivery hands the buffer to a waiting port or puts it into the channel (41_pool_channel.md R172). -/
theorem TableStep.deliver {i : Instr} {s t u : State} {c : ChanId} {k : Handle} {len : MsgLen} (may : MayUse i s k)
    (sends : Sends i s c) (hu : s.deliver c k len = some u) (same : SameTables u t) : TableStep i s t := by
  obtain ⟨q, -, he⟩ | ⟨-, hroom, he⟩ | ⟨-, -, he⟩ := s.deliver_cases c k len <;> cases he.symm.trans hu
  · exact .handed k (.held q) may same
  · exact .sent c k len may sends hroom same

theorem mayUse_of_holds {i : Instr} {s : State} {p : Nat} {k : Handle} (hi : i.port? = some p)
    (hk : ¬ s.holds p k = false) : MayUse i s k :=
  ⟨.held p, State.holds_iff.mp (Bool.of_not_eq_false hk), by rintro _ ⟨⟩; exact hi⟩

theorem mayUse_of_free {i : Instr} {s : State} {k : Handle} (hk : s.ownerOf k = some .free) : MayUse i s k :=
  ⟨.free, hk, nofun⟩

theorem mayUse_of_dec {i : Instr} {s : State} {k : Handle} (hk : s.ownerOf k = some .dec) : MayUse i s k :=
  ⟨.dec, hk, nofun⟩

theorem acquire_tableStep {s t : State} (hs : s.Inv) {p : Nat} (h : execAcquire p s = .next t) :
    TableStep (.acquire p) s t := by
  refine .prologue (fun _ hbody => ?_) h
  split at hbody <;> cases hbody
  · exact .kept (.refl s)
  · next k halloc => exact .handed k (.held p) (mayUse_of_free (hs.alloc_free halloc)) (.refl _)

theorem release_tableStep {s t : State} {p : Nat} {k : Handle} (h : execRelease p k s = .next t) :
    TableStep (.release p k) s t := by
  refine .prologue (fun _ hbody => ?_) h
  split at hbody
  · cases hbody; exact .kept (takeFatal_sameTables _ p k s)
  · split at hbody <;> cases hbody
    · exact .kept (takeFatal_sameTables _ p k s)
    · next hholds => exact .handed k .free (mayUse_of_holds rfl hholds) (.refl _)

theorem post_tableStep {s t : State} {p : Nat} {c : ChanId} {k : Handle} {len : BitVec 16}
    (h : execPost p c k len s = .next t) : TableStep (.post p c k len) s t := by
  refine .prologue (fun _ hbody => ?_) h
  split at hbody
  · cases hbody; exact .kept (takeFatal_sameTables _ p k s)
  next hholds =>
    split at hbody <;> cases hbody
    · exact .kept (answer_sameTables s p _)
    · next u hu => exact .deliver (mayUse_of_holds rfl hholds) (.inl ⟨p, k, len, rfl⟩) hu (answer_sameTables u p _)

theorem recv_tableStep {s t : State} {p : Nat} {c : ChanId} {tmo : BitVec 16} (h : execRecv p c tmo s = .next t) :
    TableStep (.recv p c tmo) s t := by
  refine .prologue (fun _ hbody => ?_) h
  split at hbody <;> cases hbody
  · next m rest hm =>
    exact .received p c tmo m rest rfl hm ⟨_, responseWord_fields .ok m.h c (m.len.setWidth 16), rfl⟩ (.refl _)
  · exact .kept (.refl s)

theorem bufRd_tableStep {s t : State} {p : Nat} {k : Handle} {off : BitVec 12} (h : execBufRd p k off s = .next t) :
    TableStep (.bufRd p k off) s t := by
  refine .prologue (fun _ hbody => ?_) h
  split at hbody
  · cases hbody; exact .kept (takeFatal_sameTables _ p k s)
  · split at hbody <;> cases hbody
    exact .kept (.refl s)

theorem bufWr_tableStep {s t : State} {p : Nat} {k : Handle} {off : BitVec 12} {data : Byte}
    (h : execBufWr p k off data s = .next t) : TableStep (.bufWr p k off data) s t := by
  refine .prologue (fun hfields hbody => ?_) h
  split at hbody
  · cases hbody; exact .kept (takeFatal_sameTables _ p k s)
  next hholds =>
    split at hbody <;> cases hbody
    next u hu =>
      obtain ⟨-, rfl, -⟩ := State.memWrite_spec hu
      exact .written k off.toNat data (mayUse_of_holds rfl hholds) (off_lt_of_fields hfields) (.refl _)

theorem rbGet_tableStep {s t : State} {p : Nat} (h : execRbGet p s = .next t) : TableStep (.rbGet p) s t := by
  refine .prologue (fun _ hbody => ?_) h
  split at hbody
  · cases hbody; exact .kept (takeFatal_sameTables _ p _ s)
  · split at hbody <;> cases hbody
    · exact .kept (answer_sameTables s p _)
    · exact .kept (.refl s)

theorem rdstat_tableStep {s t : State} {p : Nat} {reg : Byte} (h : execRdstat p reg s = .next t) :
    TableStep (.rdstat p reg) s t := by
  refine .prologue (fun _ hbody => ?_) h
  split at hbody <;> cases hbody
  · exact .kept (.refl s)
  · exact .kept (answer_sameTables s p _)

theorem rxStart_tableStep {s : State} (hs : s.Inv) (b : Byte) : TableStep (.rxByte b) s (rxStart s) := by
  unfold rxStart
  split
  · exact .kept (.refl s)
  · next k halloc => exact .handed k .dec (mayUse_of_free (hs.alloc_free halloc)) (.refl _)

theorem rxEnd_tableStep {s : State} {k : Handle} (hdec : s.ownerOf k = some .dec) :
    TableStep (.rxByte s.cfg.END) s (rxEnd k s) := by
  unfold rxEnd
  split
  · exact .handed k .free (mayUse_of_dec hdec) (.refl _)
  · next u hu => exact .deliver (mayUse_of_dec hdec) (.inr ⟨rfl, rfl⟩) hu (.refl u)

/-- A payload byte is written inside the decoder's buffer: the count has not reached `S` (40_frame_decoder.md R142). -/
theorem rxPayload_tableStep {s t : State} (hs : s.Inv) {k : Handle} {b : Byte} (hdec : s.ownerOf k = some .dec)
    (hroom : s.decCnt.toNat ≠ s.cfg.S) (h : rxPayload k b s = .next t) : TableStep (.rxByte b) s t := by
  unfold rxPayload at h
  split at h <;> cases h
  next u hu =>
    obtain ⟨-, rfl, -⟩ := State.memWrite_spec hu
    exact .written k s.decCnt.toNat b (mayUse_of_dec hdec) (lt_of_le_of_ne hs.decCap hroom) (.refl _)

theorem rxByte_tableStep {s t : State} (hs : s.Inv) {b : Byte} (h : execRxByte b s = .next t) :
    TableStep (.rxByte b) s t := by
  unfold execRxByte at h
  split at h
  · cases h; exact .kept (.refl s)
  · split at h
    · split at h
      · cases h; exact rxStart_tableStep hs b
      · split at h <;> cases h <;> exact .kept (.refl s)
    · next hrcv =>
      split at h
      · cases h
      next k hdecH =>
        have hdec : s.ownerOf k = some .dec := (hs.decOwner k).mpr ⟨Bool.of_not_eq_false hrcv, hdecH⟩
        split at h
        · next hend => cases h; subst hend; exact rxEnd_tableStep hdec
        · split at h
          · cases h; exact .handed k .free (mayUse_of_dec hdec) (.refl _)
          · next hroom => exact rxPayload_tableStep hs hdec hroom h

theorem push_sameTables (i : DbInput) (s : State) : SameTables s (push i s) := by
  unfold push
  obtain ⟨-, he⟩ | ⟨-, u, he, hu, -⟩ := s.ringPut_cases (eventCode s.cfg i) <;> rw [he]
  · cases i <;> exact .refl s
  · rw [hu]; cases i <;> exact .refl s

theorem dbStep_sameTables (i : DbInput) (smp : Bool) (s : State) : SameTables s (dbStep i smp s) := by
  have hset (d : DbState) : SameTables s (s.setDb i d) := by cases i <;> exact .refl s
  unfold dbStep
  split
  · exact hset _
  · exact hset _
  · exact push_sameTables i s
  · exact hset _
  · exact push_sameTables i s

/-- Everything an instruction can do to the owner table, the channels and pool storage. -/
theorem exec_tableStep {i : Instr} {s t : State} (hs : s.Inv) (h : exec i s = .next t) : TableStep i s t := by
  cases i with
  | acquire p => exact acquire_tableStep hs h
  | release p k => exact release_tableStep h
  | post p c k len => exact post_tableStep h
  | recv p c tmo => exact recv_tableStep h
  | bufRd p k off => exact bufRd_tableStep h
  | bufWr p k off data => exact bufWr_tableStep h
  | rbGet p => exact rbGet_tableStep h
  | rdstat p reg => exact rdstat_tableStep h
  | rxByte b => exact rxByte_tableStep hs h
  | scan s0 s1 =>
    simp only [exec, execScan] at h
    split at h <;> cases h
    · exact .kept (.refl s)
    · exact .kept ((dbStep_sameTables .in0 s0 s).trans (dbStep_sameTables .in1 s1 _))
  | tick =>
    simp only [exec, execTick] at h
    split at h <;> cases h <;> exact .kept (.refl s)
  | reset => cases h; exact .reset rfl rfl

/-- A step that takes a stimulus changes no table, or as the instruction may that the stimulus decodes to. -/
theorem step_tableStep {s t : State} {st : Stimulus} {rest : List Stimulus} (hs : s.Inv)
    (htake : s.takeNext = some (st, rest)) (h : step s = .next t) :
    SameTables s t ∨ ∃ i, decode st = .instr i ∧ TableStep i { s with inbox := rest } t := by
  have hs' : State.Inv { s with inbox := rest } := { hs with }
  obtain ⟨-, ⟨hnone, -⟩ | ⟨_, _, i, htake', hdecode, hexec⟩ | ⟨p, _, _, _, htake', -, -, rfl⟩⟩ := step_cases h
  · cases hnone.symm.trans htake
  · cases htake'.symm.trans htake
    exact .inr ⟨i, hdecode, exec_tableStep hs' hexec⟩
  · exact .inl (.refl s)

/-! ### Isolation of held buffers -/

/-- Buffer `h` has the same owner and the same bytes in `t` as in `s`. -/
def KeepsBuffer (h : Handle) (s t : State) : Prop :=
  t.ownerOf h = s.ownerOf h ∧ ∀ off < s.cfg.S, t.poolByte (poolAddr s.cfg h off) = s.poolByte (poolAddr s.cfg h off)

theorem KeepsBuffer.of_sameTables {h : Handle} {s t u : State} (hu : KeepsBuffer h s u) (same : SameTables u t) :
    KeepsBuffer h s t := by
  obtain ⟨howner, hbytes⟩ := hu
  exact ⟨(same.ownerOf h).trans howner, fun off hoff => (same.poolByte _).trans (hbytes off hoff)⟩

theorem keepsBuffer_setOwner {h k : Handle} {s : State} {o : Owner} (hk : s.ownerOf k = some o) (hne : h ≠ k)
    (o' : Owner) : KeepsBuffer h s (s.setOwner k o') :=
  ⟨(State.ownerOf_setOwner hk o' h).trans (if_neg hne), fun _ _ => rfl⟩

/-- A byte written inside another buffer is none of this one's (`poolAddr_inj`). -/
theorem keepsBuffer_write {h k : Handle} {s : State} {off : Nat} (hoff : off < s.cfg.S) (hne : h ≠ k) (b : Byte) :
    KeepsBuffer h s { s with pool := Memory.write s.pool (poolAddr s.cfg k off) b } := by
  refine ⟨rfl, fun off' hoff' => ?_⟩
  have haddr : poolAddr s.cfg h off' ≠ poolAddr s.cfg k off := fun heq => hne (poolAddr_inj hoff' hoff heq).1
  simp only [State.poolByte, Memory.read_write_other _ _ haddr]

/-- No buffer another port holds is among those an instruction may use. -/
theorem MayUse.ne_of_held {i : Instr} {s : State} {k h : Handle} {p : Nat} (may : MayUse i s k)
    (hheld : s.ownerOf h = some (.held p)) (hport : i.port? ≠ some p) : h ≠ k := by
  rintro rfl
  obtain ⟨o, ho, hp⟩ := may
  exact hport (hp p (Option.some.inj (ho.symm.trans hheld)))

/-- What an instruction does to the owner of a buffer it may use keeps every buffer another port holds. -/
theorem MayUse.keepsBuffer_setOwner {i : Instr} {s : State} {k h : Handle} {p : Nat} (may : MayUse i s k)
    (hheld : s.ownerOf h = some (.held p)) (hport : i.port? ≠ some p) (o' : Owner) :
    KeepsBuffer h s (s.setOwner k o') := by
  have hne := may.ne_of_held hheld hport
  obtain ⟨o, ho, -⟩ := may
  exact Machine.keepsBuffer_setOwner ho hne o'

/-- An instruction that is neither the holder's nor RESET keeps a held buffer. -/
theorem TableStep.keepsBuffer {i : Instr} {s t : State} {h : Handle} {p : Nat} (ht : TableStep i s t) (hs : s.Inv)
    (hheld : s.ownerOf h = some (.held p)) (hport : i.port? ≠ some p) (hreset : i ≠ .reset) : KeepsBuffer h s t := by
  cases ht with
  | kept same => exact KeepsBuffer.of_sameTables ⟨rfl, fun _ _ => rfl⟩ same
  | handed k o' may same => exact (may.keepsBuffer_setOwner hheld hport o').of_sameTables same
  | sent c k len may _ _ same =>
    have hkeeps : KeepsBuffer h s (s.enqueue c k len) := may.keepsBuffer_setOwner hheld hport (.queued c)
    exact hkeeps.of_sameTables same
  | received q c tmo m rest _ oldest _ same =>
    have hqueued : s.ownerOf m.h = some (.queued c) := (hs.queued m.h c).mpr ⟨m, by simp [oldest], rfl⟩
    have hne : h ≠ m.h := by rintro rfl; cases hheld.symm.trans hqueued
    have hkeeps : KeepsBuffer h s ((s.setChan c rest).setOwner m.h (.held q)) :=
      keepsBuffer_setOwner hqueued hne (.held q)
    exact hkeeps.of_sameTables same
  | written k off b may inside same =>
    exact (keepsBuffer_write inside (may.ne_of_held hheld hport) b).of_sameTables same
  | reset his _ => exact absurd his hreset

/-- Settles O53: an instruction of another agent may not use the buffer (`TableStep.keepsBuffer`), and an illegal word
changes no table. -/
theorem heldBuffersAreIsolated : Obligations.HeldBuffersAreIsolated := by
  intro s t p h st rest hs htake hstep hheld hagent hst
  obtain ⟨howner, hbytes⟩ : KeepsBuffer h s t := by
    obtain hsame | ⟨i, hdecode, htable⟩ := step_tableStep hs htake hstep
    · exact KeepsBuffer.of_sameTables ⟨rfl, fun _ _ => rfl⟩ hsame
    · have hport : i.port? ≠ some p := fun hp => hagent (agent_of_decode_command hdecode hp)
      have hreset : i ≠ .reset := by rintro rfl; exact hst (eq_encode_of_decode_event hdecode rfl)
      exact htable.keepsBuffer { hs with } hheld hport hreset
  exact ⟨howner.trans hheld, hbytes⟩

/-! ### Channels -/

/-- A channel with room is one the build has. -/
theorem State.Inv.chan_lt_of_hasRoom {s : State} (hs : s.Inv) {c : ChanId} (hroom : HasRoom s c) :
    c.toNat < s.ch.length := by
  obtain ⟨-, -, -, -, hDEPTH, -⟩ := (Config.legal_iff s.cfg).mp hs.legal
  rw [hs.chSize, ← hDEPTH]
  exact chan_lt_of_depth_pos (Nat.zero_lt_of_lt hroom)

theorem resetBlock_chan (s : State) (c : ChanId) : (resetBlock s).chan c = [] := by
  simp only [State.chan, resetBlock_ch, List.getD_eq_getElem?_getD, List.getElem?_replicate]
  split <;> rfl

/-- What an instruction can do to one channel. -/
theorem TableStep.chan {i : Instr} {s t : State} (ht : TableStep i s t) (hs : s.Inv) (c : ChanId) :
    t.chan c = s.chan c ∨
    ((∃ m, t.chan c = s.chan c ++ [m]) ∧ HasRoom s c ∧ Sends i s c) ∨
    (∃ m p tmo, s.chan c = m :: t.chan c ∧ i = .recv p c tmo ∧ Answered s t p 0#4 m.h c (m.len.setWidth 16)) ∨
    (i = .reset ∧ t.chan c = []) := by
  cases ht with
  | kept same => exact .inl (same.chan c)
  | handed k o may same => exact .inl (same.chan c)
  | written k off b may inside same => exact .inl (same.chan c)
  | sent d k len may sends room same =>
    have hchan : t.chan c = if c = d then s.chan d ++ [⟨k, len⟩] else s.chan c :=
      (same.chan c).trans (State.chan_setChan (hs.chan_lt_of_hasRoom room) _ c)
    by_cases hcd : c = d
    · subst hcd
      exact .inr (.inl ⟨⟨_, hchan.trans (if_pos rfl)⟩, room, sends⟩)
    · exact .inl (hchan.trans (if_neg hcd))
  | received p d tmo m rest recv oldest answered same =>
    have hchan : t.chan c = if c = d then rest else s.chan c :=
      (same.chan c).trans (State.chan_setChan (State.chan_lt_of_ne_nil (by simp [oldest])) rest c)
    by_cases hcd : c = d
    · subst hcd
      rw [if_pos rfl] at hchan
      exact .inr (.inr (.inl ⟨m, p, tmo, hchan ▸ oldest, recv, answered⟩))
    · exact .inl (hchan.trans (if_neg hcd))
  | reset his htable => exact .inr (.inr (.inr ⟨his, htable ▸ resetBlock_chan s c⟩))

/-- A message length fits the VAL field of a response (30_encoding.md R110). -/
theorem msgLen_setWidth_toNat (len : MsgLen) : (len.setWidth 16).toNat = len.toNat := by
  have := len.isLt
  rw [BitVec.toNat_setWidth]
  omega

/-- Settles O54: the four things an instruction can do to a channel (`TableStep.chan`), in terms of the stimulus. -/
theorem channelsAreBoundedFifos : Obligations.ChannelsAreBoundedFifos := by
  intro s t c st rest hs htake hstep
  obtain hsame | ⟨i, hdecode, htable⟩ := step_tableStep hs htake hstep
  · exact .inl (hsame.chan c)
  obtain hkept | ⟨hmsg, hroom, hsends⟩ | ⟨m, p, tmo, hchan, rfl, hanswer⟩ | ⟨rfl, hempty⟩ :=
    htable.chan { hs with } c
  · exact .inl hkept
  · refine .inr (.inl ⟨hmsg, hroom, ?_⟩)
    obtain ⟨p, h, len, rfl⟩ | ⟨rfl, hc⟩ := hsends
    · exact .inl ⟨p, h, len, hdecode⟩
    · exact .inr ⟨eq_encode_of_decode_event hdecode rfl, hc⟩
  · exact .inr (.inr (.inl ⟨m, p, tmo, _, hchan, hdecode, msgLen_setWidth_toNat m.len, hanswer⟩))
  · exact .inr (.inr (.inr ⟨eq_encode_of_decode_event hdecode rfl, hempty⟩))

end Sys2Proof.Machine

/-! PROOF. Encoding and decoding (30_encoding.md R101 to R108, R112): what each row of the opcode map stands for is said
once (`RowCommand`), `decodeCommand` is characterised by it (`decodeCommand_eq_instr_iff`), and a word is put together
again from the fields its row has. -/

namespace Sys2Proof

/-! ### The rows of the opcode map -/

/-- The command a word `w` on port `p` is when row `r` of the opcode map accepts it (30_encoding.md R106). -/
inductive RowCommand (p : Nat) (w : Word) : CommandRow → Instr → Prop
  | acquire : RowCommand p w rowAcquire (.acquire p)
  | release : RowCommand p w rowRelease (.release p (handleField w))
  | post : RowCommand p w rowPost (.post p (chanField w) (handleField w) (valField w))
  | recv : RowCommand p w rowRecv (.recv p (chanField w) (valField w))
  | bufRd : RowCommand p w rowBufRd (.bufRd p (handleField w) (offField w))
  | bufWr : RowCommand p w rowBufWr (.bufWr p (handleField w) (offField w) (lowByteField w))
  | rbGet : RowCommand p w rowRbGet (.rbGet p)
  | rdstat : RowCommand p w rowRdstat (.rdstat p (lowByteField w))

theorem RowCommand.mem_commandRows {p : Nat} {w : Word} {r : CommandRow} {i : Instr} (h : RowCommand p w r i) :
    r ∈ commandRows := by
  cases h <;> decide

theorem exists_rowCommand (p : Nat) (w : Word) {r : CommandRow} (hr : r ∈ commandRows) : ∃ i, RowCommand p w r i := by
  simp only [commandRows, List.mem_cons, List.not_mem_nil, or_false] at hr
  obtain rfl | rfl | rfl | rfl | rfl | rfl | rfl | rfl := hr
  · exact ⟨_, .acquire⟩
  · exact ⟨_, .release⟩
  · exact ⟨_, .post⟩
  · exact ⟨_, .recv⟩
  · exact ⟨_, .bufRd⟩
  · exact ⟨_, .bufWr⟩
  · exact ⟨_, .rbGet⟩
  · exact ⟨_, .rdstat⟩

/-- A field that the mask of a row covers has the row's own value in every word the row accepts (R107). -/
theorem extractLsb'_of_accepts {r : CommandRow} {w : Word} {start len : Nat} (hacc : w &&& r.mask = r.bits)
    (hfixed : r.mask.extractLsb' start len = BitVec.allOnes len) :
    w.extractLsb' start len = r.bits.extractLsb' start len := by
  rw [← hacc, BitVec.extractLsb'_and, hfixed, BitVec.and_allOnes]

/-- Every row fixes OP. -/
theorem opField_of_accepts {r : CommandRow} {w : Word} (hr : r ∈ commandRows) (hacc : w &&& r.mask = r.bits) :
    opField w = opField r.bits := by
  have hmask : ∀ r ∈ commandRows, opField r.mask = BitVec.allOnes 4 := by decide
  exact extractLsb'_of_accepts hacc (hmask r hr)

/-- No two rows have the same OP. -/
theorem eq_of_opField_bits_eq {r r' : CommandRow} (hr : r ∈ commandRows) (hr' : r' ∈ commandRows)
    (hop : opField r.bits = opField r'.bits) : r = r' := by
  have hinj : ∀ r ∈ commandRows, ∀ r' ∈ commandRows, opField r.bits = opField r'.bits → r = r' := by decide
  exact hinj r hr r' hr' hop

/-! ### The decoder -/

theorem checkRow_of_accepts {r : CommandRow} {w : Word} (p : Nat) (i : Instr) (hacc : w &&& r.mask = r.bits) :
    checkRow r p w i = .instr i := if_pos (beq_iff_eq.mpr hacc)

/-- What a row check lets through is the row's command, in a word the row accepts. -/
theorem RowCommand.of_checkRow {p : Nat} {w : Word} {r : CommandRow} {i j : Instr} (hrow : RowCommand p w r j)
    (h : checkRow r p w j = .instr i) : ∃ r, RowCommand p w r i ∧ w &&& r.mask = r.bits := by
  have hij : i = j := checkRow_instr h
  subst hij
  unfold checkRow at h
  split at h
  · next hacc => exact ⟨r, hrow, beq_iff_eq.mp hacc⟩
  · cases h

/-- The decoder finds a row by its OP. -/
theorem RowCommand.decodeCommand_eq {p : Nat} {w : Word} {r : CommandRow} {i : Instr} (hrow : RowCommand p w r i)
    (hop : opField w = opField r.bits) : decodeCommand p w = checkRow r p w i := by
  cases hrow <;> rw [decodeCommand, hop] <;> rfl

/-- A word decodes to a command exactly when a row accepts it, and to that row's command (R107). -/
theorem decodeCommand_eq_instr_iff {p : Nat} {w : Word} {i : Instr} :
    decodeCommand p w = .instr i ↔ ∃ r, RowCommand p w r i ∧ w &&& r.mask = r.bits := by
  constructor
  · intro h
    unfold decodeCommand at h
    split at h
    case h_1 => exact RowCommand.acquire.of_checkRow h
    case h_2 => exact RowCommand.release.of_checkRow h
    case h_3 => exact RowCommand.post.of_checkRow h
    case h_4 => exact RowCommand.recv.of_checkRow h
    case h_5 => exact RowCommand.bufRd.of_checkRow h
    case h_6 => exact RowCommand.bufWr.of_checkRow h
    case h_7 => exact RowCommand.rbGet.of_checkRow h
    case h_8 => exact RowCommand.rdstat.of_checkRow h
    case h_9 => cases h
  · rintro ⟨r, hrow, hacc⟩
    rw [hrow.decodeCommand_eq (opField_of_accepts hrow.mem_commandRows hacc), checkRow_of_accepts p i hacc]

/-- Settles O3: the row that accepts a word is the one with the word's OP, and the decoder rejects a word exactly when
there is none (`decodeCommand_eq_instr_iff`). -/
theorem everyWordIsOneRowsCommandOrRejected : Obligations.EveryWordIsOneRowsCommandOrRejected := by
  intro p w
  by_cases hsome : ∃ r ∈ commandRows, w &&& r.mask = r.bits
  · obtain ⟨r, hr, hacc⟩ := hsome
    obtain ⟨i, hrow⟩ := exists_rowCommand p w hr
    have hdecode : decodeCommand p w = .instr i := decodeCommand_eq_instr_iff.mpr ⟨r, hrow, hacc⟩
    refine .inl ⟨⟨r, hr, hacc, fun r' hr' hacc' => ?_⟩, i, hdecode, decodeCommand_instr_port hdecode⟩
    exact eq_of_opField_bits_eq hr' hr ((opField_of_accepts hr' hacc').symm.trans (opField_of_accepts hr hacc))
  · refine .inr ⟨fun r hr hacc => hsome ⟨r, hr, hacc⟩, ?_⟩
    cases hdecode : decodeCommand p w with
    | instr i =>
      obtain ⟨r, hrow, hacc⟩ := decodeCommand_eq_instr_iff.mp hdecode
      exact absurd ⟨r, hrow.mem_commandRows, hacc⟩ hsome
    | reject q d =>
      obtain rfl : q = p := Machine.decodeCommand_reject_port hdecode
      exact ⟨d, hdecode⟩

/-! ### From a word to its instruction and back -/

open BitVec (extractLsb'_append_extractLsb'_eq_extractLsb' extractLsb'_eq_self append_assoc)

/-- A word is its fields put together, by the format of RELEASE (30_encoding.md R102). -/
theorem append_handleField (w : Word) : opField w ++ handleField w ++ w.extractLsb' 0 20 = w :=
  calc opField w ++ handleField w ++ w.extractLsb' 0 20
    _ = w.extractLsb' 20 12 ++ w.extractLsb' 0 20 :=
      congrArg (· ++ w.extractLsb' 0 20) (extractLsb'_append_extractLsb'_eq_extractLsb' rfl)
    _ = w.extractLsb' 0 32 := extractLsb'_append_extractLsb'_eq_extractLsb' rfl
    _ = w := extractLsb'_eq_self

/-- The same by the format of POST and RECV (R103). -/
theorem append_chanField_valField (w : Word) : opField w ++ handleField w ++ chanField w ++ valField w = w :=
  calc opField w ++ handleField w ++ chanField w ++ valField w
    _ = opField w ++ handleField w ++ (chanField w ++ valField w) := append_assoc
    _ = opField w ++ handleField w ++ w.extractLsb' 0 20 :=
      congrArg (opField w ++ handleField w ++ ·) (extractLsb'_append_extractLsb'_eq_extractLsb' rfl)
    _ = w := append_handleField w

/-- The same by the format of BUF_RD and BUF_WR (R104). -/
theorem append_offField_lowByteField (w : Word) :
    opField w ++ handleField w ++ offField w ++ lowByteField w = w :=
  calc opField w ++ handleField w ++ offField w ++ lowByteField w
    _ = opField w ++ handleField w ++ (offField w ++ lowByteField w) := append_assoc
    _ = opField w ++ handleField w ++ w.extractLsb' 0 20 :=
      congrArg (opField w ++ handleField w ++ ·) (extractLsb'_append_extractLsb'_eq_extractLsb' rfl)
    _ = w := append_handleField w

/-- The same by the format of RDSTAT (R105). -/
theorem append_lowByteField (w : Word) : opField w ++ w.extractLsb' 8 20 ++ lowByteField w = w :=
  calc opField w ++ w.extractLsb' 8 20 ++ lowByteField w
    _ = w.extractLsb' 8 24 ++ lowByteField w :=
      congrArg (· ++ lowByteField w) (extractLsb'_append_extractLsb'_eq_extractLsb' rfl)
    _ = w.extractLsb' 0 32 := extractLsb'_append_extractLsb'_eq_extractLsb' rfl
    _ = w := extractLsb'_eq_self

/-- A row's command is presented as the word it was read from: the fields the command does not carry are those the row
fixes (R101 to R105). -/
theorem RowCommand.encode_eq {p : Nat} {w : Word} {r : CommandRow} {i : Instr} (hrow : RowCommand p w r i)
    (hacc : w &&& r.mask = r.bits) : encode i = .command p w := by
  have hop : opField w = opField r.bits := opField_of_accepts hrow.mem_commandRows hacc
  cases hrow <;> refine congrArg (Stimulus.command p) ?_
  case acquire => exact hacc.symm.trans BitVec.and_allOnes
  case release =>
    have hop : opField w = 2#4 := hop
    have hrest : w.extractLsb' 0 20 = 0#20 := extractLsb'_of_accepts hacc (by decide)
    simpa only [hop, hrest] using append_handleField w
  case post =>
    have hop : opField w = 3#4 := hop
    simpa only [hop] using append_chanField_valField w
  case recv =>
    have hop : opField w = 4#4 := hop
    have hhandle : handleField w = 0#8 := extractLsb'_of_accepts hacc (by decide)
    simpa only [hop, hhandle] using append_chanField_valField w
  case bufRd =>
    have hop : opField w = 5#4 := hop
    have hlow : lowByteField w = 0#8 := extractLsb'_of_accepts hacc (by decide)
    simpa only [hop, hlow] using append_offField_lowByteField w
  case bufWr =>
    have hop : opField w = 6#4 := hop
    simpa only [hop] using append_offField_lowByteField w
  case rbGet => exact hacc.symm.trans BitVec.and_allOnes
  case rdstat =>
    have hop : opField w = 8#4 := hop
    have hrest : w.extractLsb' 8 20 = 0#20 := extractLsb'_of_accepts hacc (by decide)
    simpa only [hop, hrest] using append_lowByteField w

/-- Settles O2: a command word is the one its row's command is presented as (`RowCommand.encode_eq`), and an event the
one its instruction is (`eq_encode_of_decode_event`). -/
theorem encodeOfDecodeIsTheStimulus : Obligations.EncodeOfDecodeIsTheStimulus := by
  intro st i h
  cases st with
  | command p w =>
    obtain ⟨r, hrow, hacc⟩ := decodeCommand_eq_instr_iff.mp h
    exact hrow.encode_eq hacc
  | rx b => cases h; rfl
  | scanStrobe ts => exact (eq_encode_of_decode_event h (by cases h; rfl)).symm
  | timeoutTick => cases h; rfl
  | resetLine => cases h; rfl

/-- Two cuts of one word at the same place have the same parts. -/
theorem append_eq_append_iff {m n : Nat} {x x' : BitVec m} {y y' : BitVec n} :
    x ++ y = x' ++ y' ↔ x = x' ∧ y = y' := by
  refine ⟨fun h => ⟨?_, ?_⟩, fun ⟨hx, hy⟩ => by rw [hx, hy]⟩
  · rw [← BitVec.extractLsb'_append_eq_left (a := x) (b := y), h, BitVec.extractLsb'_append_eq_left]
  · rw [← BitVec.extractLsb'_append_eq_right (a := x) (b := y), h, BitVec.extractLsb'_append_eq_right]

/-- Each field of a word of the format of R102 reads back what was put there. -/
theorem handleWord_fields (op : BitVec 4) (h : Handle) (rest : BitVec 20) :
    opField (op ++ h ++ rest) = op ∧ handleField (op ++ h ++ rest) = h := by
  obtain ⟨hhead, -⟩ := append_eq_append_iff.mp (append_handleField (op ++ h ++ rest))
  exact append_eq_append_iff.mp hhead

/-- The same of R103. -/
theorem channelWord_fields (op : BitVec 4) (h : Handle) (c : ChanId) (v : BitVec 16) :
    opField (op ++ h ++ c ++ v) = op ∧ handleField (op ++ h ++ c ++ v) = h ∧ chanField (op ++ h ++ c ++ v) = c ∧
      valField (op ++ h ++ c ++ v) = v := by
  simpa only [append_eq_append_iff, and_assoc] using append_chanField_valField (op ++ h ++ c ++ v)

/-- The same of R104. -/
theorem bufferWord_fields (op : BitVec 4) (h : Handle) (off : BitVec 12) (b : Byte) :
    opField (op ++ h ++ off ++ b) = op ∧ handleField (op ++ h ++ off ++ b) = h ∧ offField (op ++ h ++ off ++ b) = off ∧
      lowByteField (op ++ h ++ off ++ b) = b := by
  simpa only [append_eq_append_iff, and_assoc] using append_offField_lowByteField (op ++ h ++ off ++ b)

/-- The same of R105. -/
theorem registerWord_fields (op : BitVec 4) (rest : BitVec 20) (b : Byte) :
    opField (op ++ rest ++ b) = op ∧ lowByteField (op ++ rest ++ b) = b := by
  obtain ⟨hhead, hlow⟩ := append_eq_append_iff.mp (append_lowByteField (op ++ rest ++ b))
  exact ⟨(append_eq_append_iff.mp hhead).1, hlow⟩

/-- The word a command is presented as is one that a row accepts (the laws of `Laws.MaskMatch`). -/
theorem exists_accepts_of_encode {i : Instr} {p : Nat} {w : Word} (henc : encode i = .command p w) :
    ∃ r ∈ commandRows, w &&& r.mask = r.bits := by
  have hmatch : Laws.MaskMatch.Statement i := by
    cases i with
    | acquire p => exact Laws.MaskMatch.acquire p
    | release p h => exact Laws.MaskMatch.release p h
    | post p c h len => exact Laws.MaskMatch.post p c h len
    | recv p c tmo => exact Laws.MaskMatch.recv p c tmo
    | bufRd p h off => exact Laws.MaskMatch.bufRd p h off
    | bufWr p h off data => exact Laws.MaskMatch.bufWr p h off data
    | rbGet p => exact Laws.MaskMatch.rbGet p
    | rdstat p reg => exact Laws.MaskMatch.rdstat p reg
    | rxByte b => cases henc
    | scan s0 s1 => cases henc
    | tick => cases henc
    | reset => cases henc
  rw [Laws.MaskMatch.Statement, henc] at hmatch
  exact hmatch.2

/-- The word of an instruction whose OP is that of row `r` decodes to that row's command. -/
theorem decode_encode_of_row {i j : Instr} {p : Nat} {w : Word} {r : CommandRow} (henc : encode i = .command p w)
    (hop : opField w = opField r.bits) (hrow : RowCommand p w r j) : decode (encode i) = .instr j := by
  obtain ⟨r', hr', hacc⟩ := exists_accepts_of_encode henc
  obtain rfl : r' = r :=
    eq_of_opField_bits_eq hr' hrow.mem_commandRows ((opField_of_accepts hr' hacc).symm.trans hop)
  rw [henc]
  exact decodeCommand_eq_instr_iff.mpr ⟨r', hrow, hacc⟩

/-- Settles O1: a command's word is of the row with its OP (`decode_encode_of_row`), and its fields read back the
operands. -/
theorem decodeOfEncodeIsTheInstruction : Obligations.DecodeOfEncodeIsTheInstruction := by
  intro i
  cases i with
  | acquire p => exact decode_encode_of_row rfl (by decide) .acquire
  | release p h =>
    obtain ⟨hop, hhandle⟩ := handleWord_fields 2#4 h 0#20
    rw [decode_encode_of_row rfl hop .release, hhandle]
  | post p c h len =>
    obtain ⟨hop, hhandle, hchan, hval⟩ := channelWord_fields 3#4 h c len
    rw [decode_encode_of_row rfl hop .post, hhandle, hchan, hval]
  | recv p c tmo =>
    obtain ⟨hop, -, hchan, hval⟩ := channelWord_fields 4#4 0#8 c tmo
    rw [decode_encode_of_row rfl hop .recv, hchan, hval]
  | bufRd p h off =>
    obtain ⟨hop, hhandle, hoff, -⟩ := bufferWord_fields 5#4 h off 0#8
    rw [decode_encode_of_row rfl hop .bufRd, hhandle, hoff]
  | bufWr p h off data =>
    obtain ⟨hop, hhandle, hoff, hdata⟩ := bufferWord_fields 6#4 h off data
    rw [decode_encode_of_row rfl hop .bufWr, hhandle, hoff, hdata]
  | rbGet p => exact decode_encode_of_row rfl (by decide) .rbGet
  | rdstat p reg =>
    obtain ⟨hop, hreg⟩ := registerWord_fields 8#4 0#20 reg
    rw [decode_encode_of_row rfl hop .rdstat, hreg]
  | rxByte b => rfl
  | scan s0 s1 => cases s0 <;> cases s1 <;> rfl
  | tick => rfl
  | reset => rfl

/-- Settles O4: each word is read by the formats' bit positions. -/
theorem sampleWordsDecode : Obligations.SampleWordsDecode := by
  unfold Obligations.SampleWordsDecode
  decide

end Sys2Proof

/-! PROOF. The answers a command is given (30_encoding.md R109, R110): what the common prologue does with any command,
and that each command's own rule answers its port once. -/

namespace Sys2Proof.Machine

/-! ### Fields out of range -/

/-- Every command runs behind the common prologue on its own port (60_exceptions.md R290). -/
theorem exec_eq_prologue {i : Instr} {p : Nat} (s : State) (hp : i.port? = some p) :
    ∃ body, exec i s = prologue i p s body := by
  cases i with
  | rxByte b => cases hp
  | scan s0 s1 => cases hp
  | tick => cases hp
  | reset => cases hp
  | _ => cases hp; exact ⟨_, rfl⟩

/-- The prologue looks at the fields before it looks at the halt. -/
theorem prologue_of_fields_illegal {i : Instr} {p : Nat} {s : State} (body : Host.Outcome State Fault Refusal)
    (hidle : s.port[p]? = some .idle) (hfields : i.fieldsLegal s.cfg = false) :
    prologue i p s body = .next (s.answer p .illegal) := by
  simp [prologue, hidle, hfields]

/-- Settles O19: the prologue answers ILLEGAL before the command's own rule can halt the block, and each field of R106
is a conjunct of `Instr.fieldsLegal`. -/
theorem outOfRangeFieldsAreIllegal : Obligations.OutOfRangeFieldsAreIllegal := by
  refine ⟨fun i p s hp hidle hfields => ?_, fun g p c h len tmo off data => ?_⟩
  · obtain ⟨body, hexec⟩ := exec_eq_prologue s hp
    rw [prologue_of_fields_illegal body hidle hfields, State.answer_idle .illegal hidle] at hexec
    exact ⟨_, hexec, rfl, ⟨_, responseWord_fields .illegal 0#8 0#4 0#16, rfl⟩, keepsStorage_of_eq rfl rfl rfl⟩
  · refine ⟨fun hh => ?_, fun hc => ?_, fun ho => ?_, fun hl => ?_⟩
    · have hbad : g.handleOk h = false := decide_eq_false (Nat.not_lt.mpr hh)
      simp [Instr.fieldsLegal, hbad]
    · have hbad : g.chanOk c = false := decide_eq_false (Nat.not_lt.mpr hc)
      simp [Instr.fieldsLegal, hbad]
    · have hbad : g.offOk off = false := decide_eq_false (Nat.not_lt.mpr ho)
      simp [Instr.fieldsLegal, hbad]
    · have hbad : g.lenOk len = false := decide_eq_false (Nat.not_le.mpr hl)
      simp [Instr.fieldsLegal, hbad]

/-! ### One answer to a command -/

/-- Port `p` is given exactly one response more and ends IDLE (30_encoding.md R110). -/
def AnsweredOnce (p : Nat) (s t : State) : Prop :=
  ∃ w, answersOn p t.trace = answersOn p s.trace ++ [w] ∧ t.port[p]? = some .idle

/-- Port `p` exists and has been given no response yet, `u` being on the way from `s`. -/
def NotAnswered (p : Nat) (s u : State) : Prop :=
  answersOn p u.trace = answersOn p s.trace ∧ p < u.port.length

theorem NotAnswered.of_idle {p : Nat} {s u : State} (hidle : s.port[p]? = some .idle) (htrace : u.trace = s.trace)
    (hport : u.port = s.port) : NotAnswered p s u :=
  ⟨by rw [htrace], by rw [hport]; exact (List.getElem?_eq_some_iff.mp hidle).1⟩

theorem NotAnswered.respond {p : Nat} {s u : State} (hu : NotAnswered p s u) (rc : Rc) (h : Handle) (c : ChanId)
    (v : BitVec 16) : AnsweredOnce p s (u.respond p rc h c v) := by
  obtain ⟨htrace, hlt⟩ := hu
  exact ⟨responseWord rc h c v, by simp [answersOn_append, answersOn, htrace], by simp [hlt]⟩

theorem NotAnswered.answer {p : Nat} {s u : State} (hu : NotAnswered p s u) (rc : Rc) :
    AnsweredOnce p s (u.answer p rc) := hu.respond rc 0#8 0#4 0#16

/-- A response on another port is none on this one. -/
theorem NotAnswered.respond_other {p q : Nat} {s u : State} (hu : NotAnswered p s u) (hq : q ≠ p) (rc : Rc)
    (h : Handle) (c : ChanId) (v : BitVec 16) : NotAnswered p s (u.respond q rc h c v) := by
  obtain ⟨htrace, hlt⟩ := hu
  exact ⟨by simp [answersOn_append, answersOn, htrace, hq], by simpa using hlt⟩

/-- A delivery answers a waiting port only (41_pool_channel.md R172). -/
theorem NotAnswered.deliver {p : Nat} {s u : State} {c : ChanId} {h : Handle} {len : MsgLen}
    (hidle : s.port[p]? = some .idle) (hu : s.deliver c h len = some u) : NotAnswered p s u := by
  obtain ⟨q, hwaiter, he⟩ | ⟨-, -, he⟩ | ⟨-, -, he⟩ := s.deliver_cases c h len <;> cases he.symm.trans hu
  · obtain ⟨⟨r, hwaits⟩, -⟩ := State.waiter_some_iff.mp hwaiter
    have hqp : q ≠ p := by
      rintro rfl
      cases hidle.symm.trans hwaits
    exact NotAnswered.respond_other (.of_idle hidle rfl rfl) hqp _ _ _ _
  · exact .of_idle hidle rfl rfl

theorem answersOn_eq_nil {p : Nat} {os : List Output} (h : ∀ w, .resp p w ∉ os) : answersOn p os = [] := by
  induction os with
  | nil => rfl
  | cons o os ih =>
    have htail : answersOn p os = [] := ih fun w hw => h w (List.mem_cons_of_mem o hw)
    cases o with
    | diag d => exact htail
    | resp q w =>
      have hq : q ≠ p := by
        rintro rfl
        exact h w List.mem_cons_self
      rw [answersOn, if_neg hq, htail]

/-- The sweep of fatal entry answers no IDLE port (60_exceptions.md R285). -/
theorem answersOn_sweepAnswers_haltPort {p : Nat} {ports : List PortState} (hidle : ports[p]? = some .idle) :
    answersOn p (sweepAnswers haltPort 0 ports) = [] := by
  refine answersOn_eq_nil fun w => List.count_eq_zero.mp ?_
  rw [sweepAnswers_count]
  simp [hidle, sweepWord, haltPort]

/-- The command that halts the block is answered after the waiting ports (60_exceptions.md R285). -/
theorem AnsweredOnce.takeFatal {p : Nat} {s : State} (hidle : s.port[p]? = some .idle) (code : FatalCode)
    (h : Handle) : AnsweredOnce p s (takeFatal code p h s) := by
  refine NotAnswered.answer ⟨?_, ?_⟩ .halted
  · simp [answersOn_append, answersOn_sweepAnswers_haltPort hidle, answersOn]
  · simpa using (List.getElem?_eq_some_iff.mp hidle).1

/-- A command that completes was presented on an IDLE port (70_reset_and_hazards.md R330). -/
theorem port_idle_of_prologue {i : Instr} {p : Nat} {s t : State} {body : Host.Outcome State Fault Refusal}
    (h : prologue i p s body = .next t) : s.port[p]? = some .idle := by
  obtain ⟨-, e⟩ | ⟨_, _, -, e⟩ | ⟨hidle, -⟩ | ⟨hidle, -⟩ | ⟨hidle, -⟩ := prologue_cases i p s body
  · cases e.symm.trans h
  · cases e.symm.trans h
  all_goals exact hidle

/-- The prologue answers its port once, or the command's own rule decides. -/
theorem AnsweredOnce.or_body {i : Instr} {p : Nat} {s t : State} {body : Host.Outcome State Fault Refusal}
    (h : prologue i p s body = .next t) : AnsweredOnce p s t ∨ body = .next t := by
  obtain ⟨rc, rfl⟩ | ⟨-, -, hbody⟩ := prologue_next_cases h
  · exact .inl (NotAnswered.answer (.of_idle (port_idle_of_prologue h) rfl rfl) rc)
  · exact .inr hbody

/-- A command whose own rule answers its port once does so behind the prologue too. -/
theorem AnsweredOnce.prologue {i : Instr} {p : Nat} {s t : State} {body : Host.Outcome State Fault Refusal}
    (hbody : s.port[p]? = some .idle → body = .next t → AnsweredOnce p s t) (h : prologue i p s body = .next t) :
    AnsweredOnce p s t :=
  (AnsweredOnce.or_body h).elim id (hbody (port_idle_of_prologue h))

theorem acquire_answeredOnce {s t : State} {p : Nat} (h : execAcquire p s = .next t) : AnsweredOnce p s t := by
  refine .prologue (fun hidle hbody => ?_) h
  split at hbody <;> cases hbody
  · exact NotAnswered.answer (.of_idle hidle rfl rfl) _
  · exact NotAnswered.respond (.of_idle hidle rfl rfl) _ _ _ _

theorem release_answeredOnce {s t : State} {p : Nat} {k : Handle} (h : execRelease p k s = .next t) :
    AnsweredOnce p s t := by
  refine .prologue (fun hidle hbody => ?_) h
  split at hbody
  · cases hbody; exact .takeFatal hidle _ _
  split at hbody <;> cases hbody
  · exact .takeFatal hidle _ _
  · exact NotAnswered.answer (.of_idle hidle rfl rfl) _

theorem post_answeredOnce {s t : State} {p : Nat} {c : ChanId} {k : Handle} {len : BitVec 16}
    (h : execPost p c k len s = .next t) : AnsweredOnce p s t := by
  refine .prologue (fun hidle hbody => ?_) h
  split at hbody
  · cases hbody; exact .takeFatal hidle _ _
  split at hbody <;> cases hbody
  · exact NotAnswered.answer (.of_idle hidle rfl rfl) _
  · next u hu => exact NotAnswered.answer (.deliver hidle hu) _

/-- The port on which RECV finds its channel empty waits for it. -/
theorem recv_answeredOnce_or_waits {s t : State} {p : Nat} {c : ChanId} {tmo : BitVec 16}
    (h : execRecv p c tmo s = .next t) :
    AnsweredOnce p s t ∨ (s.chan c = [] ∧ t.trace = s.trace ∧ ∃ r, t.port[p]? = some (.wait c r)) := by
  have hidle := port_idle_of_prologue h
  obtain hanswered | hbody := AnsweredOnce.or_body h
  · exact .inl hanswered
  split at hbody <;> cases hbody
  · exact .inl (NotAnswered.respond (.of_idle hidle rfl rfl) _ _ _ _)
  · next hempty =>
    obtain ⟨r, hwait⟩ : ∃ r, recvWait c tmo = .wait c r := by
      unfold recvWait
      split
      · exact ⟨_, rfl⟩
      · exact ⟨_, rfl⟩
    have hlt := (List.getElem?_eq_some_iff.mp hidle).1
    exact .inr ⟨hempty, rfl, r, by simp [hwait, hlt]⟩

theorem bufRd_answeredOnce {s t : State} {p : Nat} {k : Handle} {off : BitVec 12}
    (h : execBufRd p k off s = .next t) : AnsweredOnce p s t := by
  refine .prologue (fun hidle hbody => ?_) h
  split at hbody
  · cases hbody; exact .takeFatal hidle _ _
  split at hbody <;> cases hbody
  exact NotAnswered.respond (.of_idle hidle rfl rfl) _ _ _ _

theorem bufWr_answeredOnce {s t : State} {p : Nat} {k : Handle} {off : BitVec 12} {data : Byte}
    (h : execBufWr p k off data s = .next t) : AnsweredOnce p s t := by
  refine .prologue (fun hidle hbody => ?_) h
  split at hbody
  · cases hbody; exact .takeFatal hidle _ _
  split at hbody <;> cases hbody
  next u hu =>
    obtain ⟨-, rfl, -⟩ := State.memWrite_spec hu
    exact NotAnswered.answer (.of_idle hidle rfl rfl) _

theorem rbGet_answeredOnce {s t : State} {p : Nat} (h : execRbGet p s = .next t) : AnsweredOnce p s t := by
  refine .prologue (fun hidle hbody => ?_) h
  split at hbody
  · cases hbody; exact .takeFatal hidle _ _
  split at hbody <;> cases hbody
  · exact NotAnswered.answer (.of_idle hidle rfl rfl) _
  · exact NotAnswered.respond (.of_idle hidle rfl rfl) _ _ _ _

theorem rdstat_answeredOnce {s t : State} {p : Nat} {reg : Byte} (h : execRdstat p reg s = .next t) :
    AnsweredOnce p s t := by
  refine .prologue (fun hidle hbody => ?_) h
  split at hbody <;> cases hbody
  · exact NotAnswered.respond (.of_idle hidle rfl rfl) _ _ _ _
  · exact NotAnswered.answer (.of_idle hidle rfl rfl) _

/-- Settles O55, a command at a time: each rule ends in one response on its own port, and what else it puts out is on
ports that were waiting. -/
theorem everyCommandIsAnsweredOnce : Obligations.EveryCommandIsAnsweredOnce := by
  intro i p s t hp h
  cases i <;> cases hp
  case acquire => exact .inl (acquire_answeredOnce h)
  case release => exact .inl (release_answeredOnce h)
  case post => exact .inl (post_answeredOnce h)
  case recv c tmo =>
    obtain hanswered | ⟨hempty, htrace, r, hwait⟩ := recv_answeredOnce_or_waits h
    · exact .inl hanswered
    · exact .inr ⟨c, tmo, r, rfl, hempty, by rw [htrace], hwait⟩
  case bufRd => exact .inl (bufRd_answeredOnce h)
  case bufWr => exact .inl (bufWr_answeredOnce h)
  case rbGet => exact .inl (rbGet_answeredOnce h)
  case rdstat => exact .inl (rdstat_answeredOnce h)

end Sys2Proof.Machine

/-! PROOF. The pseudo forms of the stimulus script (30_encoding.md R115). -/

namespace Sys2Proof.Machine

/-- A byte fits the 8 bits of an operand. -/
theorem operandBits_byte (b : Byte) : operandBits 8 b.toNat = some b := by
  rw [operandBits, if_pos b.isLt, BitVec.ofNat_toNat, BitVec.setWidth_eq]

/-- R114 and R115 take the samples 0 and 1 only. -/
theorem exists_sampleBit {n : Nat} (hn : n < 2) : ∃ b, sampleBit n = some b := by
  interval_cases n
  · exact ⟨false, rfl⟩
  · exact ⟨true, rfl⟩

theorem scanTimes_zero_stimuli {s0 s1 : Nat} (h0 : s0 < 2) (h1 : s1 < 2) :
    (ScriptLine.scanTimes 0 s0 s1).stimuli = some [] := by
  obtain ⟨a, ha⟩ := exists_sampleBit h0
  obtain ⟨b, hb⟩ := exists_sampleBit h1
  simp [ScriptLine.stimuli, ha, hb]

theorem rxText_cons_stimuli (b : Byte) (bs : List Byte) :
    (ScriptLine.rxText (b :: bs)).stimuli =
      (do let x ← (ScriptLine.rx b.toNat).stimuli
          let y ← (ScriptLine.rxText bs).stimuli
          some (x ++ y)) := by
  simp [ScriptLine.stimuli, operandBits_byte]

/-- An ill-formed sample makes both sides no line. -/
theorem scanTimes_succ_stimuli (n s0 s1 : Nat) :
    (ScriptLine.scanTimes (n + 1) s0 s1).stimuli =
      (do let x ← (ScriptLine.scan s0 s1).stimuli
          let y ← (ScriptLine.scanTimes n s0 s1).stimuli
          some (x ++ y)) := by
  simp only [ScriptLine.stimuli]
  cases sampleBit s0 with
  | none => rfl
  | some a =>
    cases sampleBit s1 with
    | none => rfl
    | some b => rfl

/-- Settles O6: a text is unfolded by its first character, a repetition by its first line. -/
theorem pseudoFormsExpand : Obligations.PseudoFormsExpand :=
  ⟨rfl, fun _ h0 _ h1 => scanTimes_zero_stimuli h0 h1, rfl, fun _ _ => rfl, rxText_cons_stimuli,
    scanTimes_succ_stimuli, fun _ => rfl⟩

end Sys2Proof.Machine

/-! PROOF. The frame decoder (40_frame_decoder.md): one equation for each case of RX_BYTE, what any received byte
leaves alone, and a whole frame with nothing interleaved. -/

namespace Sys2Proof.Machine

/-! ### Between frames -/

section Idle

variable {s : State} (hrun : s.halted = false) (hoff : s.decRcv = false)
include hrun hoff

theorem exec_start_of_idle : exec (.rxByte s.cfg.START) s = .next (rxStart s) := by
  simp [exec, execRxByte, hrun, hoff]

theorem exec_end_of_idle (hlegal : s.cfg.legal = true) : exec (.rxByte s.cfg.END) s = .next (s.diag .strayEnd) := by
  obtain ⟨hframe, -⟩ := (Config.legal_iff s.cfg).mp hlegal
  simp [exec, execRxByte, hrun, hoff, hframe.symm]

theorem exec_other_of_idle {b : Byte} (hstart : b ≠ s.cfg.START) (hend : b ≠ s.cfg.END) :
    exec (.rxByte b) s = .next s := by
  simp [exec, execRxByte, hrun, hoff, hstart, hend]

end Idle

theorem rxStart_of_lowestFree {s : State} {h : Handle} (hlow : LowestFree s h) : rxStart s = s.startFrame h := by
  obtain ⟨hfree, hmin⟩ := hlow
  rw [rxStart, State.alloc_of_lowest hfree hmin]
  rfl

theorem rxStart_of_noneFree {s : State} (hnone : NoneFree s) : rxStart s = s.diag .poolExhausted := by
  rw [rxStart, State.alloc_none_iff.mpr hnone]

/-- Settles O45: `Alloc()` answers the lowest free handle, or none when no buffer is free. -/
theorem startByteStartsAFrame : Obligations.StartByteStartsAFrame := by
  intro s hrun hoff
  rw [exec_start_of_idle hrun hoff]
  exact ⟨fun h hlow => by rw [rxStart_of_lowestFree hlow]; rfl, fun hnone => by rw [rxStart_of_noneFree hnone]; rfl⟩

/-- Settles O49: START and END differ in a legal build (00_scope.md R6), so END between frames is a stray END. -/
theorem bytesBetweenFramesChangeNothing : Obligations.BytesBetweenFramesChangeNothing := by
  refine fun s b hlegal hrun hoff hstart => ⟨?_, exec_other_of_idle hrun hoff hstart⟩
  rintro rfl
  exact exec_end_of_idle hrun hoff hlegal

/-! ### Inside a frame -/

/-- The decoder's buffer `h` with byte `b` at the current count, and the count one more (40_frame_decoder.md R142). -/
def State.storeByte (s : State) (h : Handle) (b : Byte) : State :=
  { s with pool := Memory.write s.pool (poolAddr s.cfg h s.decCnt.toNat) b, decCnt := s.decCnt + 1#13 }

theorem State.storeByte_poolByte_same (s : State) (h : Handle) (b : Byte) :
    (s.storeByte h b).poolByte (poolAddr s.cfg h s.decCnt.toNat) = b := by
  simp [State.storeByte, State.poolByte]

theorem State.storeByte_poolByte_other (s : State) {h : Handle} (b : Byte) {a : Nat}
    (ha : a ≠ poolAddr s.cfg h s.decCnt.toNat) : (s.storeByte h b).poolByte a = s.poolByte a := by
  simp [State.storeByte, State.poolByte, Memory.read_write_other _ _ ha]

/-- Below `S` the count does not wrap: `S` is at most 4096. -/
theorem State.storeByte_decCnt_toNat {s : State} (h : Handle) (b : Byte) (hlegal : s.cfg.legal = true)
    (hroom : s.decCnt.toNat < s.cfg.S) : (s.storeByte h b).decCnt.toNat = s.decCnt.toNat + 1 := by
  obtain ⟨-, -, ⟨-, hS⟩, -⟩ := (Config.legal_iff s.cfg).mp hlegal
  change (s.decCnt + 1#13).toNat = s.decCnt.toNat + 1
  bv_omega

/-- The running decoder receives a frame into buffer `h` (40_frame_decoder.md R140). -/
structure State.Receives (s : State) (h : Handle) : Prop where
  running : s.halted = false
  receiving : s.decRcv = true
  buffer : s.decH = some h

section Receiving

variable {s : State} {h : Handle} (hrcv : s.Receives h)
include hrcv

theorem State.Receives.exec_end : exec (.rxByte s.cfg.END) s = .next (rxEnd h s) := by
  simp [exec, execRxByte, hrcv.running, hrcv.receiving, hrcv.buffer]

theorem State.Receives.exec_overflow {b : Byte} (hend : b ≠ s.cfg.END) (hfull : s.decCnt.toNat = s.cfg.S) :
    exec (.rxByte b) s = .next (rxOverflow h s) := by
  simp [exec, execRxByte, hrcv.running, hrcv.receiving, hrcv.buffer, hend, hfull]

theorem State.Receives.exec_payload {b : Byte} (hend : b ≠ s.cfg.END) (hN : h.toNat < s.cfg.N)
    (hroom : s.decCnt.toNat < s.cfg.S) : exec (.rxByte b) s = .next (s.storeByte h b) := by
  have hwrite := State.memWrite_some b (poolAddr_lt hN hroom)
  simp [exec, execRxByte, rxPayload, hrcv.running, hrcv.receiving, hrcv.buffer, hend, hroom.ne, hwrite, State.storeByte]

end Receiving

/-- Settles O46: the byte goes to its own pool address (`State.Receives.exec_payload`). -/
theorem payloadByteIsWritten : Obligations.PayloadByteIsWritten := by
  intro s b h hlegal hrun hrcv hbuf hN hend hroom
  exact ⟨_, State.Receives.exec_payload ⟨hrun, hrcv, hbuf⟩ hend hN hroom, rfl,
    State.storeByte_decCnt_toNat h b hlegal hroom, s.storeByte_poolByte_same h b,
    fun _ ha => s.storeByte_poolByte_other b ha⟩

/-- Settles O47: the buffer's end is looked at before the byte is written. -/
theorem overflowAbortsTheFrame : Obligations.OverflowAbortsTheFrame := fun _ _ _ hrun hrcv hbuf hend hfull =>
  State.Receives.exec_overflow ⟨hrun, hrcv, hbuf⟩ hend hfull

/-! ### The end of a frame -/

theorem rxEnd_of_waiter {s : State} {q : Nat} (h : Handle) (hq : LowestWaiter s 0#4 q) :
    rxEnd h s = ((s.setOwner h (.held q)).respond q .ok h 0#4 (s.decCnt.setWidth 16)).decIdle := by
  simp [rxEnd, State.deliver, State.waiter_some_iff.mpr hq]

theorem rxEnd_of_room {s : State} (h : Handle) (hwait : NoWaiter s 0#4) (hroom : HasRoom s 0#4) :
    rxEnd h s = (s.enqueue 0#4 h s.decCnt).decIdle := by
  rw [HasRoom] at hroom
  simp [rxEnd, State.deliver, State.waiter_none_iff.mpr hwait, hroom, State.enqueue]

theorem rxEnd_of_full {s : State} (h : Handle) (hwait : NoWaiter s 0#4) (hfull : ¬ HasRoom s 0#4) :
    rxEnd h s = (s.dropFrame h).diag .channelFull := by
  rw [HasRoom] at hfull
  simp only [rxEnd, State.deliver, State.waiter_none_iff.mpr hwait, if_neg hfull]
  rfl

/-- A channel has a lowest waiting port or none. -/
theorem lowestWaiter_or_noWaiter (s : State) (c : ChanId) : (∃ q, LowestWaiter s c q) ∨ NoWaiter s c := by
  cases hw : s.waiter c with
  | some q => exact .inl ⟨q, State.waiter_some_iff.mp hw⟩
  | none => exact .inr (State.waiter_none_iff.mp hw)

/-- Everything END can do inside a frame (40_frame_decoder.md R144). -/
theorem rxEnd_cases (h : Handle) (s : State) :
    (∃ q, LowestWaiter s 0#4 q ∧
      rxEnd h s = ((s.setOwner h (.held q)).respond q .ok h 0#4 (s.decCnt.setWidth 16)).decIdle) ∨
    (NoWaiter s 0#4 ∧ HasRoom s 0#4 ∧ rxEnd h s = (s.enqueue 0#4 h s.decCnt).decIdle) ∨
    (NoWaiter s 0#4 ∧ ¬ HasRoom s 0#4 ∧ rxEnd h s = (s.dropFrame h).diag .channelFull) := by
  obtain ⟨q, hq⟩ | hwait := lowestWaiter_or_noWaiter s 0#4
  · exact .inl ⟨q, hq, rxEnd_of_waiter h hq⟩
  by_cases hroom : HasRoom s 0#4
  · exact .inr (.inl ⟨hwait, hroom, rxEnd_of_room h hwait hroom⟩)
  · exact .inr (.inr ⟨hwait, hroom, rxEnd_of_full h hwait hroom⟩)

/-- END makes the decoder idle and writes no byte. -/
theorem rxEnd_decRcv_poolByte (h : Handle) (s : State) :
    (rxEnd h s).decRcv = false ∧ ∀ a, (rxEnd h s).poolByte a = s.poolByte a := by
  obtain ⟨q, -, he⟩ | ⟨-, -, he⟩ | ⟨-, -, he⟩ := rxEnd_cases h s <;> rw [he] <;> exact ⟨rfl, fun _ => rfl⟩

/-- Settles O48: the three outcomes of `Deliver(0, dec.h, dec.cnt)`. -/
theorem endByteDeliversOrDropsTheFrame : Obligations.EndByteDeliversOrDropsTheFrame := by
  intro s h _ hrun hrcv hbuf
  rw [State.Receives.exec_end ⟨hrun, hrcv, hbuf⟩]
  refine ⟨fun q hq => ?_, fun hwait hroom => ?_, fun hwait hfull => ?_⟩
  · rw [rxEnd_of_waiter h hq]
    exact ⟨_, _, rfl, rfl, responseWord_fields .ok h 0#4 _⟩
  · rw [rxEnd_of_room h hwait hroom]; rfl
  · rw [rxEnd_of_full h hwait hfull]; rfl

/-! ### What any received byte leaves alone -/

/-- What RX_BYTE keeps of the parameters, the halt flag and the ports, and what it puts out: diagnostic events, and
responses whose VAL is no more than a buffer's size. -/
structure RxEffect (s t : State) : Prop where
  cfg : t.cfg = s.cfg
  halted : t.halted = s.halted
  idlePorts : ∀ p : Nat, s.port[p]? = some .idle → t.port[p]? = some .idle
  outputs : ∃ more, t.trace = s.trace ++ more ∧ ∀ q w, .resp q w ∈ more → (w.extractLsb' 0 16).toNat ≤ s.cfg.S

theorem RxEffect.of_diags {s t : State} {ds : List DiagCode} (hcfg : t.cfg = s.cfg) (hhalted : t.halted = s.halted)
    (hport : t.port = s.port) (htrace : t.trace = s.trace ++ ds.map .diag) : RxEffect s t where
  cfg := hcfg
  halted := hhalted
  idlePorts := fun _ hp => hport ▸ hp
  outputs := ⟨_, htrace, by simp⟩

theorem RxEffect.of_silent {s t : State} (hcfg : t.cfg = s.cfg) (hhalted : t.halted = s.halted)
    (hport : t.port = s.port) (htrace : t.trace = s.trace) : RxEffect s t :=
  .of_diags (ds := []) hcfg hhalted hport (htrace.trans (List.append_nil _).symm)

theorem RxEffect.refl (s : State) : RxEffect s s := .of_silent rfl rfl rfl rfl

theorem RxEffect.trans {s t u : State} (hst : RxEffect s t) (htu : RxEffect t u) : RxEffect s u := by
  obtain ⟨more, htrace, hle⟩ := hst.outputs
  obtain ⟨more', htrace', hle'⟩ := htu.outputs
  refine ⟨htu.cfg.trans hst.cfg, htu.halted.trans hst.halted, fun p hp => htu.idlePorts p (hst.idlePorts p hp),
    more ++ more', by rw [htrace', htrace, List.append_assoc], fun q w hw => ?_⟩
  obtain hw | hw := List.mem_append.mp hw
  · exact hle q w hw
  · exact hst.cfg ▸ hle' q w hw

theorem rxStart_effect (s : State) : RxEffect s (rxStart s) := by
  unfold rxStart
  split
  · exact .of_diags (ds := [.poolExhausted]) rfl rfl rfl rfl
  · exact .of_silent rfl rfl rfl rfl

/-- END answers at most the port that waits, with the payload count as the length. -/
theorem rxEnd_effect {s : State} (h : Handle) (hcap : s.decCnt.toNat ≤ s.cfg.S) : RxEffect s (rxEnd h s) := by
  obtain ⟨q, -, he⟩ | ⟨-, -, he⟩ | ⟨-, -, he⟩ := rxEnd_cases h s <;> rw [he]
  · refine ⟨rfl, rfl, fun p hp => ?_, _, rfl, fun r w hw => ?_⟩
    · obtain ⟨hlt, -⟩ := List.getElem?_eq_some_iff.mp hp
      by_cases hqp : q = p
      · simp [hqp, hlt]
      · simpa [hqp] using hp
    · obtain ⟨-, rfl⟩ := Output.resp.inj (List.mem_singleton.mp hw)
      obtain ⟨-, -, -, hval⟩ := responseWord_fields .ok h 0#4 (s.decCnt.setWidth 16)
      rwa [hval, msgLen_setWidth_toNat]
  · exact .of_silent rfl rfl rfl rfl
  · exact .of_diags (ds := [.channelFull]) rfl rfl rfl rfl

/-- A receiving decoder has a buffer, one of the build's (10_state.md R33, R41 item 1). -/
theorem State.Inv.receives {s : State} (hs : s.Inv) (hrun : s.halted = false) (hon : s.decRcv = true) :
    ∃ h, s.Receives h ∧ h.toNat < s.cfg.N := by
  obtain ⟨h, hbuf⟩ := Option.ne_none_iff_exists'.mp (hs.decOn hon)
  obtain ⟨hlt, -⟩ := List.getElem?_eq_some_iff.mp ((hs.decOwner h).mpr ⟨hon, hbuf⟩)
  exact ⟨h, ⟨hrun, hon, hbuf⟩, hs.ownerSize ▸ hlt⟩

/-- Every received byte completes (40_frame_decoder.md R148), case by case of R140. -/
theorem exec_rxByte_effect {s : State} (hs : s.Inv) (b : Byte) : ∃ t, exec (.rxByte b) s = .next t ∧ RxEffect s t := by
  cases hrun : s.halted with
  | true => exact ⟨s, if_pos hrun, .refl s⟩
  | false =>
    cases hon : s.decRcv with
    | false =>
      by_cases hstart : b = s.cfg.START
      · exact ⟨_, hstart ▸ exec_start_of_idle hrun hon, rxStart_effect s⟩
      by_cases hend : b = s.cfg.END
      · exact ⟨s.diag .strayEnd, hend ▸ exec_end_of_idle hrun hon hs.legal,
          .of_diags (ds := [.strayEnd]) rfl rfl rfl rfl⟩
      · exact ⟨s, exec_other_of_idle hrun hon hstart hend, .refl s⟩
    | true =>
      obtain ⟨h, hrcv, hN⟩ := hs.receives hrun hon
      by_cases hend : b = s.cfg.END
      · exact ⟨_, hend ▸ hrcv.exec_end, rxEnd_effect h hs.decCap⟩
      by_cases hfull : s.decCnt.toNat = s.cfg.S
      · exact ⟨rxOverflow h s, hrcv.exec_overflow hend hfull, .of_diags (ds := [.frameOverflow]) rfl rfl rfl rfl⟩
      · exact ⟨_, hrcv.exec_payload hend hN (lt_of_le_of_ne hs.decCap hfull), .of_silent rfl rfl rfl rfl⟩

/-- Settles O50: every case of RX_BYTE has its outcome (`exec_rxByte_effect`). -/
theorem rxByteAlwaysCompletes : Obligations.RxByteAlwaysCompletes := by
  intro s b hs
  obtain ⟨t, hexec, heffect⟩ := exec_rxByte_effect hs b
  exact ⟨t, hexec, heffect.halted, heffect.idlePorts⟩

/-! ### Runs of received bytes -/

theorem execAll_cons_of_next {i : Instr} {is : List Instr} {s t : State} (h : exec i s = .next t) :
    execAll (i :: is) s = execAll is t := by
  rw [execAll, h]

/-- A run keeps the invariants of 10_state.md R41. -/
theorem inv_of_execAll {is : List Instr} {s t : State} (hs : s.Inv) (h : execAll is s = .next t) : t.Inv := by
  induction is generalizing s with
  | nil => cases h; exact hs
  | cons i is ih =>
    cases hexec : exec i s with
    | next u => exact ih (hs.exec hexec) ((execAll_cons_of_next hexec).symm.trans h)
    | fault f => simp [execAll, hexec] at h
    | refused r => simp [execAll, hexec] at h

theorem execAll_rxBytes_effect {s : State} (hs : s.Inv) (bs : List Byte) :
    ∃ t, execAll (bs.map .rxByte) s = .next t ∧ RxEffect s t := by
  induction bs generalizing s with
  | nil => exact ⟨s, rfl, .refl s⟩
  | cons b bs ih =>
    obtain ⟨u, hexec, hsu⟩ := exec_rxByte_effect hs b
    obtain ⟨t, hexecs, hut⟩ := ih (hs.exec hexec)
    exact ⟨t, (execAll_cons_of_next hexec).trans hexecs, hsu.trans hut⟩

/-- With no free buffer a byte between frames is dropped, with an event or none. -/
theorem exec_rxByte_of_noneFree {s : State} (hlegal : s.cfg.legal = true) (hrun : s.halted = false)
    (hoff : s.decRcv = false) (hnone : NoneFree s) (b : Byte) :
    ∃ ds : List DiagCode, exec (.rxByte b) s = .next { s with trace := s.trace ++ ds.map .diag } := by
  by_cases hstart : b = s.cfg.START
  · exact ⟨[.poolExhausted], by rw [hstart, exec_start_of_idle hrun hoff, rxStart_of_noneFree hnone]; rfl⟩
  by_cases hend : b = s.cfg.END
  · exact ⟨[.strayEnd], by rw [hend, exec_end_of_idle hrun hoff hlegal]; rfl⟩
  · exact ⟨[], by simp [exec_other_of_idle hrun hoff hstart hend]⟩

theorem execAll_rxBytes_of_noneFree {s : State} (hlegal : s.cfg.legal = true) (hrun : s.halted = false)
    (hoff : s.decRcv = false) (hnone : NoneFree s) (bs : List Byte) :
    ∃ ds : List DiagCode, execAll (bs.map .rxByte) s = .next { s with trace := s.trace ++ ds.map .diag } := by
  induction bs generalizing s with
  | nil => exact ⟨[], by simp [execAll]⟩
  | cons b bs ih =>
    obtain ⟨ds, hexec⟩ := exec_rxByte_of_noneFree hlegal hrun hoff hnone b
    obtain ⟨ds', hexecs⟩ := ih (s := { s with trace := s.trace ++ ds.map .diag }) hlegal hrun hoff hnone
    exact ⟨ds ++ ds', by rw [List.map_cons, execAll_cons_of_next hexec, hexecs]; simp⟩

/-- Payload that fits is stored byte after byte from the current count on, and no byte below is written. -/
theorem State.Receives.execAll_payload {s : State} {h : Handle} (hrcv : s.Receives h) (hlegal : s.cfg.legal = true)
    (hN : h.toNat < s.cfg.N) {ds : List Byte} (hend : ∀ d ∈ ds, d ≠ s.cfg.END)
    (hfit : s.decCnt.toNat + ds.length ≤ s.cfg.S) :
    ∃ t, execAll (ds.map .rxByte) s = .next t ∧
      t = { s with pool := t.pool, decCnt := s.decCnt + BitVec.ofNat 13 ds.length } ∧
      (∀ j d, ds[j]? = some d → t.poolByte (poolAddr s.cfg h (s.decCnt.toNat + j)) = d) ∧
      ∀ a < poolAddr s.cfg h s.decCnt.toNat, t.poolByte a = s.poolByte a := by
  induction ds generalizing s with
  | nil => exact ⟨s, rfl, by simp, by simp, fun _ _ => rfl⟩
  | cons b ds ih =>
    rw [List.length_cons] at hfit
    have hroom : s.decCnt.toNat < s.cfg.S := by omega
    have hexec := hrcv.exec_payload (hend b List.mem_cons_self) hN hroom
    have hcnt := State.storeByte_decCnt_toNat h b hlegal hroom
    have hfit' : (s.storeByte h b).decCnt.toNat + ds.length ≤ s.cfg.S := by omega
    obtain ⟨t, hexecs, ht, hbytes, hbelow⟩ :=
      ih (s := s.storeByte h b) ⟨hrcv.running, hrcv.receiving, hrcv.buffer⟩ hlegal hN
        (fun d hd => hend d (List.mem_cons_of_mem _ hd)) hfit'
    rw [hcnt] at hbytes hbelow
    have hkept (a : Nat) (ha : a ≤ poolAddr s.cfg h s.decCnt.toNat) : t.poolByte a = (s.storeByte h b).poolByte a :=
      hbelow a (Nat.lt_succ_of_le ha)
    refine ⟨t, (execAll_cons_of_next hexec).trans hexecs, ?_, fun j d hj => ?_, fun a ha => ?_⟩
    · rw [ht]
      simp [State.storeByte, BitVec.ofNat_add, BitVec.add_assoc, BitVec.add_comm (BitVec.ofNat 13 ds.length)]
    · cases j with
      | zero =>
        obtain rfl := Option.some.inj hj
        exact (hkept _ le_rfl).trans (s.storeByte_poolByte_same h b)
      | succ j =>
        rw [Nat.add_comm j 1, ← Nat.add_assoc]
        exact hbytes j d hj
    · exact (hkept a ha.le).trans (s.storeByte_poolByte_other b ha.ne)

/-! ### A whole frame -/

/-- The state inside a frame that began in `s`, into buffer `h`, with `k` payload bytes received and pool storage
`pool`. -/
def State.inFrame (s : State) (h : Handle) (pool : Memory) (k : Nat) : State :=
  { s.startFrame h with pool := pool, decCnt := BitVec.ofNat 13 k }

@[simp] theorem State.inFrame_port (s : State) (h : Handle) (pool : Memory) (k : Nat) :
    (s.inFrame h pool k).port = s.port := rfl

@[simp] theorem State.inFrame_ch (s : State) (h : Handle) (pool : Memory) (k : Nat) :
    (s.inFrame h pool k).ch = s.ch := rfl

@[simp] theorem State.inFrame_trace (s : State) (h : Handle) (pool : Memory) (k : Nat) :
    (s.inFrame h pool k).trace = s.trace := rfl

/-- The payload of a frame that fits is counted: `S` is at most 4096. -/
theorem inFrame_decCnt_toNat {s : State} (hlegal : s.cfg.legal = true) (h : Handle) (pool : Memory) {k : Nat}
    (hk : k ≤ s.cfg.S) : (s.inFrame h pool k).decCnt.toNat = k := by
  obtain ⟨-, -, ⟨-, hS⟩, -⟩ := (Config.legal_iff s.cfg).mp hlegal
  exact Nat.mod_eq_of_lt (by omega)

section Frame

variable {s : State} (hs : s.Inv) (hrun : s.halted = false) (hoff : s.decRcv = false) {h : Handle}
  (hlow : LowestFree s h)

include hrun in
theorem inFrame_receives (pool : Memory) (k : Nat) : (s.inFrame h pool k).Receives h := ⟨hrun, rfl, rfl⟩

include hlow in
theorem inFrame_ownerOf (pool : Memory) (k : Nat) : (s.inFrame h pool k).ownerOf h = some .dec :=
  (State.ownerOf_setOwner hlow.1 .dec h).trans (if_pos rfl)

include hs hrun hoff hlow

/-- START and a payload that fits: the lowest free buffer holds the payload. -/
theorem execAll_start_payload {ds : List Byte} (hend : ∀ d ∈ ds, d ≠ s.cfg.END) (hfit : ds.length ≤ s.cfg.S) :
    ∃ pool, execAll (.rxByte s.cfg.START :: ds.map .rxByte) s = .next (s.inFrame h pool ds.length) ∧
      ∀ j d, ds[j]? = some d → (s.inFrame h pool ds.length).poolByte (poolAddr s.cfg h j) = d := by
  obtain ⟨hlt, -⟩ := List.getElem?_eq_some_iff.mp hlow.1
  have hstart : exec (.rxByte s.cfg.START) s = .next (s.startFrame h) := by
    rw [exec_start_of_idle hrun hoff, rxStart_of_lowestFree hlow]
  have hrcv : (s.startFrame h).Receives h := ⟨hrun, rfl, rfl⟩
  have hfit' : (s.startFrame h).decCnt.toNat + ds.length ≤ s.cfg.S := by simpa [State.startFrame] using hfit
  obtain ⟨t, hexecs, ht, hbytes, -⟩ := hrcv.execAll_payload hs.legal (hs.ownerSize ▸ hlt) hend hfit'
  have ht' : t = s.inFrame h t.pool ds.length := by
    rw [ht]; simp [State.inFrame, State.startFrame]
  refine ⟨t.pool, ?_, fun j d hj => ?_⟩
  · rw [execAll_cons_of_next hstart, hexecs, ← ht']
  · rw [← ht']
    simpa [State.startFrame] using hbytes j d hj

/-- A frame that fits is its payload in the lowest free buffer, then END. -/
theorem execAll_frame {ds : List Byte} (hend : ∀ d ∈ ds, d ≠ s.cfg.END) (hfit : ds.length ≤ s.cfg.S) :
    ∃ pool, execAll (frameBytes s.cfg ds) s = .next (rxEnd h (s.inFrame h pool ds.length)) ∧
      ∀ j d, ds[j]? = some d → (s.inFrame h pool ds.length).poolByte (poolAddr s.cfg h j) = d := by
  obtain ⟨pool, hexecs, hbytes⟩ := execAll_start_payload hs hrun hoff hlow hend hfit
  refine ⟨pool, ?_, hbytes⟩
  rw [frameBytes, ← List.cons_append, execAll_append hexecs]
  exact execAll_cons_of_next (inFrame_receives hrun pool _).exec_end

/-- The first byte past the buffer's end drops the frame. -/
theorem execAll_start_overflow {pre : List Byte} {b : Byte} (hend : ∀ d ∈ pre ++ [b], d ≠ s.cfg.END)
    (hlen : pre.length = s.cfg.S) :
    ∃ t, execAll ((s.cfg.START :: pre ++ [b]).map .rxByte) s = .next t ∧ t.cfg = s.cfg ∧
      t.trace = s.trace ++ [.diag .frameOverflow] := by
  obtain ⟨pool, hexecs, -⟩ :=
    execAll_start_payload hs hrun hoff hlow (fun d hd => hend d (List.mem_append_left _ hd)) hlen.le
  have hfull := (inFrame_decCnt_toNat hs.legal h pool hlen.le).trans hlen
  have hover := (inFrame_receives hrun pool _).exec_overflow (hend b (by simp)) hfull
  refine ⟨rxOverflow h (s.inFrame h pool pre.length), ?_, rfl, rfl⟩
  rw [List.map_append, List.map_cons, execAll_append hexecs]
  exact execAll_cons_of_next hover

omit hrun hoff in
/-- END of a frame that fits delivers it when a port waits on channel 0 or the channel has room. -/
theorem rxEnd_inFrame_deliveredTo0 (pool : Memory) {k : Nat} (hk : k ≤ s.cfg.S)
    (htakes : ¬ NoWaiter s 0#4 ∨ HasRoom s 0#4) : DeliveredTo0 s (rxEnd h (s.inFrame h pool k)) h k := by
  have howner (o : Owner) : ((s.inFrame h pool k).setOwner h o).ownerOf h = some o :=
    (State.ownerOf_setOwner (inFrame_ownerOf hlow pool k) o h).trans (if_pos rfl)
  obtain ⟨q, hq, he⟩ | ⟨hwait, hroom, he⟩ | ⟨hwait, hfull, -⟩ := rxEnd_cases h (s.inFrame h pool k)
  · have hval : (s.inFrame h pool k).decCnt.setWidth 16 = BitVec.ofNat 16 k := by
      refine BitVec.eq_of_toNat_eq ?_
      have hcnt := inFrame_decCnt_toNat hs.legal h pool hk
      have hlt := (s.inFrame h pool k).decCnt.isLt
      rw [msgLen_setWidth_toNat, hcnt, BitVec.toNat_ofNat, Nat.mod_eq_of_lt (by omega)]
    rw [he, hval]
    exact .inl ⟨q, _, hq, howner (.held q), by simp, by simp, responseWord_fields .ok h 0#4 _, by simp⟩
  · have hchan : ((s.inFrame h pool k).enqueue 0#4 h (BitVec.ofNat 13 k)).chan 0#4 =
        s.chan 0#4 ++ [⟨h, BitVec.ofNat 13 k⟩] :=
      (State.chan_setChan (s := s.inFrame h pool k) (hs.chan_lt_of_hasRoom hroom) _ 0#4).trans (if_pos rfl)
    rw [he]
    exact .inr ⟨hwait, howner (.queued 0#4), hchan, rfl, rfl⟩
  · exact absurd htakes (not_or.mpr ⟨not_not.mpr hwait, hfull⟩)

/-- An over-long frame reports FRAME_OVERFLOW first, and whatever its remaining bytes do, no length is more than
`S`. -/
theorem execAll_frame_overflow {ds : List Byte} (hend : ∀ d ∈ ds, d ≠ s.cfg.END) (hover : s.cfg.S < ds.length) :
    ∃ t more, execAll (frameBytes s.cfg ds) s = .next t ∧ t.trace = s.trace ++ .diag .frameOverflow :: more ∧
      (∀ m ∈ t.chan 0#4, m.len.toNat ≤ s.cfg.S) ∧
      ∀ q w, .resp q w ∈ more → (w.extractLsb' 0 16).toNat ≤ s.cfg.S := by
  obtain ⟨pre, b, post, rfl, hlen⟩ : ∃ pre b post, ds = pre ++ [b] ++ post ∧ pre.length = s.cfg.S :=
    ⟨ds.take s.cfg.S, ds[s.cfg.S], ds.drop (s.cfg.S + 1), by simp, by simp [hover.le]⟩
  obtain ⟨u, hdrop, hcfg, htrace⟩ :=
    execAll_start_overflow hs hrun hoff hlow (fun d hd => hend d (List.mem_append_left _ hd)) hlen
  obtain ⟨t, hrest, heffect⟩ := execAll_rxBytes_effect (inv_of_execAll hs hdrop) (post ++ [s.cfg.END])
  obtain ⟨more, hmore, hle⟩ := heffect.outputs
  have hframe : frameBytes s.cfg (pre ++ [b] ++ post) =
      (s.cfg.START :: pre ++ [b]).map .rxByte ++ (post ++ [s.cfg.END]).map .rxByte := by simp [frameBytes]
  have hexec : execAll (frameBytes s.cfg (pre ++ [b] ++ post)) s = .next t := by
    rw [hframe, execAll_append hdrop, hrest]
  have hS : t.cfg.S = s.cfg.S := by rw [heffect.cfg, hcfg]
  refine ⟨t, more, hexec, by rw [hmore, htrace]; simp, fun m hm => ?_, hcfg ▸ hle⟩
  exact hS ▸ (inv_of_execAll hs hexec).msgCap 0#4 m hm

end Frame

/-- Settles O51, a condition of R150 at a time: START finds no buffer, the payload passes the buffer's end, END finds no
room, or the frame is delivered. -/
theorem frameIsDeliveredExactlyWhenItCan : Obligations.FrameIsDeliveredExactlyWhenItCan := by
  intro s ds hs hrun hoff hend
  refine ⟨fun h hlow hfit htakes => ?_, fun hnone => ?_, fun h hlow hover => ?_, fun h hlow hfit hwait hfull => ?_⟩
  · obtain ⟨pool, hexec, hbytes⟩ := execAll_frame hs hrun hoff hlow hend hfit
    obtain ⟨hidle, hkept⟩ := rxEnd_decRcv_poolByte h (s.inFrame h pool ds.length)
    exact ⟨_, hexec, rxEnd_inFrame_deliveredTo0 hs hlow pool hfit htakes, hidle,
      fun j d hj => (hkept _).trans (hbytes j d hj)⟩
  · have hstart : exec (.rxByte s.cfg.START) s = .next (s.diag .poolExhausted) := by
      rw [exec_start_of_idle hrun hoff, rxStart_of_noneFree hnone]
    obtain ⟨evs, hexecs⟩ :=
      execAll_rxBytes_of_noneFree (s := s.diag .poolExhausted) hs.legal hrun hoff hnone (ds ++ [s.cfg.END])
    rw [List.map_append] at hexecs
    exact ⟨_, evs.map .diag, (execAll_cons_of_next hstart).trans hexecs, rfl, rfl, rfl, by simp, by simp⟩
  · obtain ⟨t, more, hexec, htrace, hmsgs, hresps⟩ := execAll_frame_overflow hs hrun hoff hlow hend hover
    exact ⟨t, more, hexec, htrace, fun m hm => (hmsgs m hm).trans_lt hover,
      fun q w hw => (hresps q w hw).trans_lt hover⟩
  · obtain ⟨pool, hexec, -⟩ := execAll_frame hs hrun hoff hlow hend hfit
    have hdec := inFrame_ownerOf hlow pool ds.length
    rw [rxEnd_of_full h (s := s.inFrame h pool ds.length) hwait hfull] at hexec
    exact ⟨_, hexec, rfl, (State.ownerOf_setOwner hdec .free h).trans (if_pos rfl), rfl, rfl⟩

end Sys2Proof.Machine

/-! PROOF. The commands of the Pool and Channel unit (41_pool_channel.md R174 to R186): what each does in each of its
cases, in the terms of the owner table and the channels. -/

namespace Sys2Proof.Machine

/-! ### Answers to a ready command -/

theorem Ready.idle {i : Instr} {p : Nat} {s : State} (h : Ready i p s) : s.port[p]? = some .idle := h.1

theorem State.respond_answered (s : State) (p : Nat) (rc : Rc) (h : Handle) (c : ChanId) (v : BitVec 16) :
    Answered s (s.respond p rc h c v) p rc.bits h c v := ⟨_, responseWord_fields rc h c v, rfl⟩

theorem State.answer_answered (s : State) (p : Nat) (rc : Rc) :
    Answered s (s.answer p rc) p rc.bits 0#8 0#4 0#16 := s.respond_answered p rc _ _ _

/-- A response on an IDLE port changes the trace only. -/
theorem State.respond_eq_withTrace {s : State} {p : Nat} (rc : Rc) (h : Handle) (c : ChanId) (v : BitVec 16)
    (hidle : s.port[p]? = some .idle) :
    s.respond p rc h c v = { s with trace := (s.respond p rc h c v).trace } := State.respond_idle rc h c v hidle

theorem State.answer_eq_withTrace {s : State} {p : Nat} (rc : Rc) (hidle : s.port[p]? = some .idle) :
    s.answer p rc = { s with trace := (s.answer p rc).trace } := State.respond_eq_withTrace rc _ _ _ hidle

/-- Making a port IDLE leaves every IDLE port IDLE. -/
theorem port_idle_set_idle {ports : List PortState} {p : Nat} (hidle : ports[p]? = some .idle) (q : Nat) :
    (ports.set q .idle)[p]? = some .idle := by
  obtain ⟨hlt, -⟩ := List.getElem?_eq_some_iff.mp hidle
  by_cases hqp : q = p
  · simp [hqp, hlt]
  · rw [List.getElem?_set_ne hqp, hidle]

theorem State.holds_eq_false_iff {s : State} {p : Nat} {h : Handle} :
    s.holds p h = false ↔ s.ownerOf h ≠ some (.held p) := beq_eq_false_iff_ne

/-! ### ACQUIRE and RELEASE -/

/-- Settles O24: `Alloc()` answers the lowest free handle, or none when no buffer is free. -/
theorem acquireTakesTheLowestFreeBuffer : Obligations.AcquireTakesTheLowestFreeBuffer := by
  intro s p hready
  refine ⟨fun h ⟨hfree, hmin⟩ => ?_, fun hnone => ?_⟩
  · have hexec : exec (.acquire p) s = .next ((s.setOwner h (.held p)).respond p .ok h 0#4 0#16) := by
      simp [exec, execAcquire, prologue_ready _ hready, State.alloc_of_lowest hfree hmin]
    exact ⟨_, hexec, State.respond_eq_withTrace .ok h 0#4 0#16 hready.idle, State.respond_answered _ p .ok h 0#4 0#16,
      keepsStorage_of_eq rfl rfl rfl⟩
  · have hexec : exec (.acquire p) s = .next (s.answer p .exhausted) := by
      simp [exec, execAcquire, prologue_ready _ hready, State.alloc_none_iff.mpr hnone]
    exact ⟨_, hexec, State.answer_eq_withTrace .exhausted hready.idle, s.answer_answered p .exhausted,
      keepsStorage_of_eq rfl rfl rfl⟩

/-- Settles O25: whether the buffer is free is asked before whether the port holds it (60_exceptions.md R290). -/
theorem releaseFreesTheHoldersBufferOrHalts : Obligations.ReleaseFreesTheHoldersBufferOrHalts := by
  intro s p h hready
  refine ⟨fun hheld => ?_, fun hfree => ?_, fun hnfree hnheld => ?_⟩
  · have hexec : exec (.release p h) s = .next ((s.setOwner h .free).answer p .ok) := by
      simp [exec, execRelease, prologue_ready _ hready, hheld, State.holds_iff.mpr hheld]
    exact ⟨_, hexec, State.answer_eq_withTrace .ok hready.idle, State.answer_answered _ p .ok,
      keepsStorage_of_eq rfl rfl rfl⟩
  · have hexec : exec (.release p h) s = .next (takeFatal .doubleRelease p h s) := by
      simp [exec, execRelease, prologue_ready _ hready, hfree]
    exact ⟨_, hexec, takeFatal_entered .doubleRelease h hready.idle⟩
  · have hexec : exec (.release p h) s = .next (takeFatal .notOwner p h s) := by
      simp [exec, execRelease, prologue_ready _ hready, hnfree, State.holds_eq_false_iff.mpr hnheld]
    exact ⟨_, hexec, takeFatal_entered .notOwner h hready.idle⟩

/-! ### POST and RECV -/

/-- A length within R106 is the same in a message and in the VAL field of a response: `S` is at most 4096. -/
theorem msgLen_toNat_of_le {g : Config} (hlegal : g.legal = true) {len : BitVec 16} (hlen : len.toNat ≤ g.S) :
    (msgLen len).toNat = len.toNat := by
  obtain ⟨-, -, ⟨-, hS⟩, -⟩ := (Config.legal_iff g).mp hlegal
  rw [msgLen, BitVec.toNat_setWidth, Nat.mod_eq_of_lt (by omega)]

theorem msgLen_setWidth_of_le {g : Config} (hlegal : g.legal = true) {len : BitVec 16} (hlen : len.toNat ≤ g.S) :
    (msgLen len).setWidth 16 = len :=
  BitVec.eq_of_toNat_eq ((msgLen_setWidth_toNat _).trans (msgLen_toNat_of_le hlegal hlen))

theorem Ready.post_len_le {s : State} {p : Nat} {c : ChanId} {h : Handle} {len : BitVec 16}
    (hready : Ready (.post p c h len) p s) : len.toNat ≤ s.cfg.S :=
  of_decide_eq_true (Bool.and_eq_true_iff.mp hready.fields).2

/-! The three outcomes of `Deliver(c, h, len)` (41_pool_channel.md R172). -/

theorem State.deliver_of_waiter {s : State} {c : ChanId} {q : Nat} (h : Handle) (len : MsgLen)
    (hq : LowestWaiter s c q) :
    s.deliver c h len = some ((s.setOwner h (.held q)).respond q .ok h c (len.setWidth 16)) := by
  simp [State.deliver, State.waiter_some_iff.mpr hq]

theorem State.deliver_of_room {s : State} {c : ChanId} (h : Handle) (len : MsgLen) (hwait : NoWaiter s c)
    (hroom : HasRoom s c) : s.deliver c h len = some (s.enqueue c h len) := by
  rw [State.deliver, State.waiter_none_iff.mpr hwait]
  exact if_pos hroom

theorem State.deliver_of_full {s : State} {c : ChanId} (h : Handle) (len : MsgLen) (hwait : NoWaiter s c)
    (hfull : ¬ HasRoom s c) : s.deliver c h len = none := by
  rw [State.deliver, State.waiter_none_iff.mpr hwait]
  exact if_neg hfull

section Post

variable {s : State} {p : Nat} {c : ChanId} {h : Handle} {len : BitVec 16} (hready : Ready (.post p c h len) p s)
include hready

theorem exec_post_of_deliver_some (hheld : s.ownerOf h = some (.held p)) {u : State}
    (hu : s.deliver c h (msgLen len) = some u) : exec (.post p c h len) s = .next (u.answer p .ok) := by
  simp [exec, execPost, prologue_ready _ hready, State.holds_iff.mpr hheld, hu]

theorem exec_post_of_deliver_none (hheld : s.ownerOf h = some (.held p))
    (hnone : s.deliver c h (msgLen len) = none) : exec (.post p c h len) s = .next (s.answer p .full) := by
  simp [exec, execPost, prologue_ready _ hready, State.holds_iff.mpr hheld, hnone]

theorem exec_post_of_not_held (hnheld : s.ownerOf h ≠ some (.held p)) :
    exec (.post p c h len) s = .next (takeFatal .notOwner p h s) := by
  simp [exec, execPost, prologue_ready _ hready, State.holds_eq_false_iff.mpr hnheld]

end Post

/-- Settles O26: what `Deliver(c, h, len)` does decides what the poster is answered; the port it hands the buffer to
waits, so it is not the poster's. -/
theorem postDeliversAnswersFullOrHalts : Obligations.PostDeliversAnswersFullOrHalts := by
  intro s p c h len hlegal hready
  have hlen := hready.post_len_le
  refine ⟨fun q hheld hq => ?_, fun hheld hwait hroom => ?_, fun hheld hwait hfull => ?_, fun hnheld => ?_⟩
  · have hexec := exec_post_of_deliver_some hready hheld (State.deliver_of_waiter h (msgLen len) hq)
    rw [msgLen_setWidth_of_le hlegal hlen] at hexec
    have hidle : ((s.setOwner h (.held q)).respond q .ok h c len).port[p]? = some .idle :=
      port_idle_set_idle hready.idle q
    exact ⟨_, _, _, hexec, State.answer_eq_withTrace .ok hidle, responseWord_fields .ok h c len,
      responseWord_fields .ok 0#8 0#4 0#16, by simp, keepsStorage_of_eq rfl rfl rfl⟩
  · exact ⟨_, ⟨h, msgLen len⟩,
      exec_post_of_deliver_some hready hheld (State.deliver_of_room h (msgLen len) hwait hroom), rfl,
      msgLen_toNat_of_le hlegal hlen, State.answer_eq_withTrace (s := s.enqueue c h (msgLen len)) .ok hready.idle,
      State.answer_answered _ p .ok, keepsStorage_of_eq rfl rfl rfl⟩
  · exact ⟨_, exec_post_of_deliver_none hready hheld (State.deliver_of_full h (msgLen len) hwait hfull),
      State.answer_eq_withTrace .full hready.idle, s.answer_answered p .full, keepsStorage_of_eq rfl rfl rfl⟩
  · exact ⟨_, exec_post_of_not_held hready hnheld, takeFatal_entered .notOwner h hready.idle⟩

section Recv

variable {s : State} {p : Nat} {c : ChanId} {tmo : BitVec 16} (hready : Ready (.recv p c tmo) p s)
include hready

theorem exec_recv_of_message {m : Msg} {rest : List Msg} (hchan : s.chan c = m :: rest) :
    exec (.recv p c tmo) s =
      .next (((s.setChan c rest).setOwner m.h (.held p)).respond p .ok m.h c (m.len.setWidth 16)) := by
  simp [exec, execRecv, prologue_ready _ hready, hchan]

theorem exec_recv_of_empty (hchan : s.chan c = []) :
    exec (.recv p c tmo) s = .next (s.setPort p (recvWait c tmo)) := by
  simp [exec, execRecv, prologue_ready _ hready, hchan]

end Recv

theorem recvWait_forever (c : ChanId) : recvWait c 0#16 = .wait c .forever := if_pos rfl

theorem recvWait_ticks (c : ChanId) {tmo : BitVec 16} (htmo : tmo ≠ 0#16) : recvWait c tmo = .wait c (.ticks tmo) :=
  if_neg htmo

/-- Settles O27: the timeout is looked at only when the channel is empty. -/
theorem recvTakesTheOldestOrWaits : Obligations.RecvTakesTheOldestOrWaits := by
  intro s p c tmo hready
  refine ⟨fun m rest hchan => ?_, fun hempty htmo => ?_, fun hempty htmo => ?_⟩
  · exact ⟨_, _, exec_recv_of_message hready hchan,
      State.respond_eq_withTrace (s := (s.setChan c rest).setOwner m.h (.held p)) .ok m.h c _ hready.idle,
      msgLen_setWidth_toNat m.len, State.respond_answered _ p .ok m.h c _, keepsStorage_of_eq rfl rfl rfl⟩
  · subst htmo
    rw [exec_recv_of_empty hready hempty, recvWait_forever]
    rfl
  · rw [exec_recv_of_empty hready hempty, recvWait_ticks c htmo]
    rfl

/-! ### BUF_RD and BUF_WR -/

theorem exec_bufRd_of_not_held {s : State} {p : Nat} {h : Handle} {off : BitVec 12}
    (hready : Ready (.bufRd p h off) p s) (hnheld : s.ownerOf h ≠ some (.held p)) :
    exec (.bufRd p h off) s = .next (takeFatal .notOwner p h s) := by
  simp [exec, execBufRd, prologue_ready _ hready, State.holds_eq_false_iff.mpr hnheld]

theorem exec_bufWr_of_not_held {s : State} {p : Nat} {h : Handle} {off : BitVec 12} {data : Byte}
    (hready : Ready (.bufWr p h off data) p s) (hnheld : s.ownerOf h ≠ some (.held p)) :
    exec (.bufWr p h off data) s = .next (takeFatal .notOwner p h s) := by
  simp [exec, execBufWr, prologue_ready _ hready, State.holds_eq_false_iff.mpr hnheld]

/-- Settles O31: `exec_bufRd_of_held` answers the byte at the address 20_memory.md R80 gives it. -/
theorem bufRdReadsTheHoldersByteOrHalts : Obligations.BufRdReadsTheHoldersByteOrHalts := by
  intro s p h off hready
  refine ⟨fun hheld => ?_, fun hnheld => ?_⟩
  · exact ⟨_, _, exec_bufRd_of_held hready hheld, State.respond_eq_withTrace .ok 0#8 0#4 _ hready.idle,
      BitVec.toNat_setWidth_of_le (by decide), State.respond_answered _ p .ok 0#8 0#4 _,
      keepsStorage_of_eq rfl rfl rfl⟩
  · exact ⟨_, exec_bufRd_of_not_held hready hnheld, takeFatal_entered .notOwner h hready.idle⟩

/-- Settles O32: the one byte that `State.memWrite_spec` changes is the one addressed. -/
theorem bufWrWritesTheHoldersByteOrHalts : Obligations.BufWrWritesTheHoldersByteOrHalts := by
  intro s p h off data hready
  refine ⟨fun hheld => ?_, fun hnheld => ?_⟩
  · obtain ⟨u, hwrite, hexec⟩ := exec_bufWr_of_held hready hheld
    obtain ⟨-, rfl, hsame, hother⟩ := State.memWrite_spec hwrite
    exact ⟨_, hexec, State.answer_eq_withTrace .ok hready.idle, hsame, hother, fun _ => rfl,
      State.answer_answered _ p .ok⟩
  · exact ⟨_, exec_bufWr_of_not_held hready hnheld, takeFatal_entered .notOwner h hready.idle⟩

/-! ### TICK -/

theorem tickPort_ticks (c : ChanId) {r : BitVec 16} (hr : r ≠ 1#16) :
    tickPort (.wait c (.ticks r)) = (.wait c (.ticks (r - 1#16)), none) := if_neg hr

theorem tickPort_lastTick (c : ChanId) : tickPort (.wait c (.ticks 1#16)) = (.idle, some .timeout) := rfl

/-- Nothing but the last tick of a timeout is answered. -/
theorem tickPort_answer {ps : PortState} {rc : Rc} (h : (tickPort ps).2 = some rc) :
    rc = .timeout ∧ ∃ c, ps = .wait c (.ticks 1#16) := by
  match ps with
  | .idle => cases h
  | .wait c .forever => cases h
  | .wait c (.ticks r) =>
    by_cases hr : r = 1#16
    · subst hr
      rw [tickPort_lastTick] at h
      exact ⟨(Option.some.inj h).symm, c, rfl⟩
    · rw [tickPort_ticks c hr] at h
      cases h

theorem sweepWord_tickPort_lastTick (c : ChanId) : sweepWord tickPort (.wait c (.ticks 1#16)) = some timeoutWord := by
  simp [sweepWord, tickPort_lastTick]

theorem exec_tick_of_running {s : State} (hrun : s.halted = false) : exec .tick s = .next (s.sweepPorts tickPort) := by
  simp [exec, execTick, hrun]

/-- A sweep changes each port by its own state. -/
theorem State.sweepPorts_port_getElem? (s : State) (f : PortState → PortState × Option Rc) (q : Nat) :
    (s.sweepPorts f).port[q]? = s.port[q]?.map fun ps => (f ps).1 := by
  rw [State.sweepPorts_port, List.getElem?_map]

/-- Settles O29: the sweep treats each port by its own state (`tickPort`), and `sweepAnswers_count` counts its
answers. -/
theorem tickCountsDownEveryTimeout : Obligations.TickCountsDownEveryTimeout := by
  refine ⟨fun s hhalted => if_pos hhalted, fun s hrun => ?_⟩
  refine ⟨_, _, exec_tick_of_running hrun, rfl, List.length_map _, fun q hq => ?_, fun q c hq => ?_, fun q c hq => ?_,
    fun q c r hq hr => ?_, fun q hq => ?_, fun o ho => ?_, keepsStorage_of_eq rfl rfl rfl⟩
  · rw [State.sweepPorts_port_getElem?, hq]; rfl
  · rw [State.sweepPorts_port_getElem?, hq]; rfl
  · rw [State.sweepPorts_port_getElem?, sweepAnswers_count]
    simp [hq, tickPort_lastTick, sweepWord_tickPort_lastTick]
  · rw [State.sweepPorts_port_getElem?, hq, Option.map_some, tickPort_ticks c hr]
  · rw [sweepAnswers_count, if_neg]
    rintro ⟨-, hword⟩
    obtain ⟨ps, hps, hsweep⟩ := Option.bind_eq_some_iff.mp hword
    obtain ⟨rc, hrc, -⟩ := Option.map_eq_some_iff.mp hsweep
    obtain ⟨-, c, rfl⟩ := tickPort_answer hrc
    exact hq c hps
  · obtain ⟨q, ps, rc, -, hrc, rfl⟩ := sweepAnswers_mem ho
    obtain ⟨rfl, -⟩ := tickPort_answer hrc
    exact ⟨q, by simp⟩

end Sys2Proof.Machine

/-! PROOF. Timeouts (41_pool_channel.md R182): what a sweep over the ports does to one port, and runs of TICK. -/

namespace Sys2Proof.Machine

/-! ### One port in a sweep -/

theorem answersOn_sweepAnswers_of_lt (f : PortState → PortState × Option Rc) {p q₀ : Nat} (hlt : p < q₀)
    (ports : List PortState) : answersOn p (sweepAnswers f q₀ ports) = [] := by
  refine answersOn_eq_nil fun w => List.count_eq_zero.mp ?_
  rw [sweepAnswers_count, if_neg fun h => Nat.not_le.mpr hlt h.1]

/-- A sweep that begins at port `q₀` gives port `q₀ + k` the answer that the state of that port calls for. -/
theorem answersOn_sweepAnswers (f : PortState → PortState × Option Rc) (ports : List PortState) (q₀ k : Nat) :
    answersOn (q₀ + k) (sweepAnswers f q₀ ports) = (ports[k]?.bind (sweepWord f)).toList := by
  induction ports generalizing q₀ k with
  | nil => rfl
  | cons ps rest ih =>
    cases k with
    | zero =>
      have hrest := answersOn_sweepAnswers_of_lt f (Nat.lt_succ_self q₀) rest
      unfold sweepAnswers
      split
      · next rc hrc => simp [answersOn, hrest, sweepWord, hrc]
      · next hrc => simp [hrest, sweepWord, hrc]
    | succ k =>
      have hrest := ih (q₀ + 1) k
      rw [Nat.add_right_comm, Nat.add_assoc] at hrest
      unfold sweepAnswers
      split
      · simp [answersOn, hrest]
      · simp [hrest]

theorem State.sweepPorts_answersOn (s : State) (f : PortState → PortState × Option Rc) (p : Nat) :
    answersOn p (s.sweepPorts f).trace = answersOn p s.trace ++ (s.port[p]?.bind (sweepWord f)).toList := by
  have hanswers := answersOn_sweepAnswers f s.port 0 p
  rw [Nat.zero_add] at hanswers
  rw [State.sweepPorts_trace, answersOn_append, hanswers]

/-! ### What becomes of one port -/

/-- Port `p` has the same command state in `t` as in `s` and has been given no response in between. -/
def KeepsPort (p : Nat) (s t : State) : Prop :=
  t.port[p]? = s.port[p]? ∧ answersOn p t.trace = answersOn p s.trace

/-- Port `p` is IDLE in `t` and has been given the responses `ws` since `s`. -/
def EndsIdle (p : Nat) (ws : List Word) (s t : State) : Prop :=
  t.port[p]? = some .idle ∧ answersOn p t.trace = answersOn p s.trace ++ ws

section Tick

variable {s : State} {p : Nat} {c : ChanId}

theorem KeepsPort.tick_forever (hwait : s.port[p]? = some (.wait c .forever)) :
    KeepsPort p s (s.sweepPorts tickPort) := by
  refine ⟨?_, ?_⟩
  · rw [State.sweepPorts_port_getElem?, hwait]; rfl
  · rw [State.sweepPorts_answersOn, hwait]; exact List.append_nil _

theorem tick_counts {n : BitVec 16} (hwait : s.port[p]? = some (.wait c (.ticks n))) (hn : n ≠ 1#16) :
    (s.sweepPorts tickPort).port[p]? = some (.wait c (.ticks (n - 1#16))) ∧
      answersOn p (s.sweepPorts tickPort).trace = answersOn p s.trace := by
  refine ⟨?_, ?_⟩
  · rw [State.sweepPorts_port_getElem?, hwait, Option.map_some, tickPort_ticks c hn]
  · rw [State.sweepPorts_answersOn, hwait]
    simp [sweepWord, tickPort_ticks c hn]

theorem EndsIdle.lastTick (hwait : s.port[p]? = some (.wait c (.ticks 1#16))) :
    EndsIdle p [timeoutWord] s (s.sweepPorts tickPort) := by
  refine ⟨?_, ?_⟩
  · rw [State.sweepPorts_port_getElem?, hwait]; rfl
  · rw [State.sweepPorts_answersOn, hwait, Option.bind_some, sweepWord_tickPort_lastTick]; rfl

end Tick

/-! ### Runs of TICK -/

/-- Fewer TICKs than the count leave the port waiting with the count that much lower. -/
theorem execAll_ticks_of_lt {s : State} {p : Nat} {c : ChanId} {n : BitVec 16} (hrun : s.halted = false)
    (hwait : s.port[p]? = some (.wait c (.ticks n))) {k : Nat} (hk : k < n.toNat) :
    ∃ t, execAll (List.replicate k .tick) s = .next t ∧ t.halted = false ∧
      t.port[p]? = some (.wait c (.ticks (n - BitVec.ofNat 16 k))) ∧ answersOn p t.trace = answersOn p s.trace := by
  induction k with
  | zero => exact ⟨s, rfl, hrun, by simpa using hwait, rfl⟩
  | succ k ih =>
    obtain ⟨u, hexecs, hrunU, hwaitU, htraceU⟩ := ih (by omega)
    have hnotLast : n - BitVec.ofNat 16 k ≠ 1#16 := fun h => by bv_omega
    have hcount : n - BitVec.ofNat 16 k - 1#16 = n - BitVec.ofNat 16 (k + 1) := by bv_omega
    obtain ⟨hport, htrace⟩ := tick_counts hwaitU hnotLast
    refine ⟨u.sweepPorts tickPort, ?_, hrunU, hcount ▸ hport, htrace.trans htraceU⟩
    rw [List.replicate_succ', execAll_append hexecs]
    exact execAll_cons_of_next (exec_tick_of_running hrunU)

/-- As many TICKs as the count complete the RECV with TIMEOUT. -/
theorem execAll_ticks_timeout {s : State} {p : Nat} {c : ChanId} {n : BitVec 16} (hrun : s.halted = false)
    (hwait : s.port[p]? = some (.wait c (.ticks n))) (hn : n ≠ 0#16) :
    ∃ t, execAll (List.replicate n.toNat .tick) s = .next t ∧ EndsIdle p [timeoutWord] s t := by
  obtain ⟨k, hk⟩ : ∃ k, n.toNat = k + 1 := ⟨n.toNat - 1, by bv_omega⟩
  obtain ⟨u, hexecs, hrunU, hwaitU, htraceU⟩ := execAll_ticks_of_lt hrun hwait (k := k) (by omega)
  have hlast : n - BitVec.ofNat 16 k = 1#16 := by bv_omega
  rw [hlast] at hwaitU
  obtain ⟨hport, htrace⟩ := EndsIdle.lastTick hwaitU
  refine ⟨u.sweepPorts tickPort, ?_, hport, by rw [htrace, htraceU]⟩
  rw [hk, List.replicate_succ', execAll_append hexecs]
  exact execAll_cons_of_next (exec_tick_of_running hrunU)

/-- Settles O30: RECV leaves its port waiting with the whole timeout, and the TICKs count it down. -/
theorem recvTimesOutAtItsLastTick : Obligations.RecvTimesOutAtItsLastTick := by
  intro s p c tmo hready hempty htmo
  have hexec := exec_recv_of_empty hready hempty
  rw [recvWait_ticks c htmo] at hexec
  have hrun : s.halted = false := hready.2.2
  have hwait : (s.setPort p (.wait c (.ticks tmo))).port[p]? = some (.wait c (.ticks tmo)) := by
    simp [(List.getElem?_eq_some_iff.mp hready.idle).1]
  refine ⟨fun k hk => ?_, ?_⟩
  · obtain ⟨t, hexecs, -, hport, htrace⟩ := execAll_ticks_of_lt (s := s.setPort p _) hrun hwait hk
    exact ⟨t, (execAll_cons_of_next hexec).trans hexecs, hport, htrace⟩
  · obtain ⟨t, hexecs, hport, htrace⟩ := execAll_ticks_timeout (s := s.setPort p _) hrun hwait htmo
    exact ⟨t, (execAll_cons_of_next hexec).trans hexecs, hport, htrace⟩

end Sys2Proof.Machine

/-! PROOF. What one instruction can do, said once: every outcome of a command (`CommandStep`) and of a received byte
(`RxStep`). The two rules about every step that follow, which instruction frees a buffer (41_pool_channel.md R191) and
how a waiting RECV ends (R180), are case analyses of these. -/

namespace Sys2Proof.Machine

/-! ### The outcomes of a command -/

/-- The ways command `i` on port `p` can take `s` to a next state. -/
inductive CommandStep (p : Nat) (s : State) : Instr → State → Prop
  /-- It is answered and changes nothing else. -/
  | answered {i : Instr} (rc : Rc) (h : Handle) (c : ChanId) (v : BitVec 16) :
    CommandStep p s i (s.respond p rc h c v)
  /-- It halts the block. -/
  | fatal {i : Instr} (code : FatalCode) (h : Handle) (ready : Ready i p s) (violates : Violates s i p code h) :
    CommandStep p s i (takeFatal code p h s)
  /-- ACQUIRE takes a free buffer. -/
  | acquired (h : Handle) (alloc : s.alloc = some h) :
    CommandStep p s (.acquire p) ((s.setOwner h (.held p)).respond p .ok h 0#4 0#16)
  /-- RELEASE gives a buffer back. -/
  | released (h : Handle) (held : s.ownerOf h = some (.held p)) :
    CommandStep p s (.release p h) ((s.setOwner h .free).answer p .ok)
  /-- POST hands a buffer to the lowest waiting port. -/
  | handed (c : ChanId) (h : Handle) (len : BitVec 16) (q : Nat) (held : s.ownerOf h = some (.held p))
      (fits : len.toNat ≤ s.cfg.S) (waiter : LowestWaiter s c q) :
    CommandStep p s (.post p c h len)
      (((s.setOwner h (.held q)).respond q .ok h c ((msgLen len).setWidth 16)).answer p .ok)
  /-- POST puts a message into a channel. -/
  | queued (c : ChanId) (h : Handle) (len : BitVec 16) (held : s.ownerOf h = some (.held p)) (nobody : NoWaiter s c)
      (room : HasRoom s c) : CommandStep p s (.post p c h len) ((s.enqueue c h (msgLen len)).answer p .ok)
  /-- RECV takes the oldest message of a channel. -/
  | received (c : ChanId) (tmo : BitVec 16) (m : Msg) (rest : List Msg) (oldest : s.chan c = m :: rest) :
    CommandStep p s (.recv p c tmo)
      (((s.setChan c rest).setOwner m.h (.held p)).respond p .ok m.h c (m.len.setWidth 16))
  /-- RECV waits on an empty channel. -/
  | waits (c : ChanId) (tmo : BitVec 16) (empty : s.chan c = []) :
    CommandStep p s (.recv p c tmo) (s.setPort p (recvWait c tmo))
  /-- BUF_WR writes a byte of a buffer. -/
  | wrote (h : Handle) (off : BitVec 12) (b : Byte) (held : s.ownerOf h = some (.held p)) :
    CommandStep p s (.bufWr p h off b)
      (State.answer { s with pool := Memory.write s.pool (poolAddr s.cfg h off.toNat) b } p .ok)
  /-- RB_GET takes the oldest entry off the ring. -/
  | took (consumer : p = s.cfg.RB_CONSUMER) (nonempty : s.rbCnt ≠ 0#16) :
    CommandStep p s (.rbGet p)
      (State.respond { s with rbRd := ringNext s.cfg s.rbRd, rbCnt := s.rbCnt - 1#16 } p .ok 0#8 0#4
        ((s.ringByte s.rbRd.toNat).setWidth 16))

/-- What the prologue answers by itself is one of the outcomes; for the others the command is ready. -/
theorem CommandStep.prologue {i : Instr} {p : Nat} {s t : State} {body : Host.Outcome State Fault Refusal}
    (hserved : servedWhileHalted i = false) (hbody : Ready i p s → body = .next t → CommandStep p s i t)
    (h : prologue i p s body = .next t) : CommandStep p s i t := by
  obtain ⟨-, e⟩ | ⟨_, _, -, e⟩ | ⟨-, -, e⟩ | ⟨-, -, -, -, e⟩ | ⟨hidle, hfields, hhalted, e⟩ :=
    prologue_cases i p s body <;> rw [e] at h
  · cases h
  · cases h
  · cases h; exact .answered _ _ _ _
  · cases h; exact .answered _ _ _ _
  · have hrun : s.halted = false := Bool.eq_false_iff.mpr fun hh => Bool.noConfusion (hserved.symm.trans (hhalted hh))
    exact hbody ⟨hidle, hfields, hrun⟩ h

/-- POST, BUF_RD and BUF_WR of a buffer the port does not hold break the rule of ownership (60_exceptions.md R284). -/
theorem Violates.of_not_holds {i : Instr} {p : Nat} {s : State} {k : Handle}
    (hi : (∃ c len, i = .post p c k len) ∨ (∃ off, i = .bufRd p k off) ∨ ∃ off data, i = .bufWr p k off data)
    (hholds : s.holds p k = false) : Violates s i p .notOwner k :=
  .inr (.inr (.inl ⟨hi, State.holds_eq_false_iff.mp hholds, rfl⟩))

theorem acquire_commandStep {s t : State} {p : Nat} (h : execAcquire p s = .next t) :
    CommandStep p s (.acquire p) t := by
  refine .prologue rfl (fun _ hbody => ?_) h
  split at hbody <;> cases hbody
  · exact .answered _ _ _ _
  · next k halloc => exact .acquired k halloc

theorem release_commandStep {s t : State} {p : Nat} {k : Handle} (h : execRelease p k s = .next t) :
    CommandStep p s (.release p k) t := by
  refine .prologue rfl (fun hready hbody => ?_) h
  split at hbody
  · next hfree => cases hbody; exact .fatal _ k hready (.inl ⟨rfl, hfree, rfl⟩)
  next hfree =>
    split at hbody <;> cases hbody
    · next hholds =>
      exact .fatal _ k hready (.inr (.inl ⟨rfl, hfree, State.holds_eq_false_iff.mp hholds, rfl⟩))
    · next hholds => exact .released k (State.holds_iff.mp (Bool.of_not_eq_false hholds))

theorem post_commandStep {s t : State} {p : Nat} {c : ChanId} {k : Handle} {len : BitVec 16}
    (h : execPost p c k len s = .next t) : CommandStep p s (.post p c k len) t := by
  refine .prologue rfl (fun hready hbody => ?_) h
  split at hbody
  · next hholds =>
    cases hbody
    exact .fatal _ k hready (.of_not_holds (.inl ⟨c, len, rfl⟩) hholds)
  next hholds =>
    have hheld := State.holds_iff.mp (Bool.of_not_eq_false hholds)
    split at hbody <;> cases hbody
    · exact .answered _ _ _ _
    next u hu =>
      obtain ⟨q, hq, he⟩ | ⟨hnone, hroom, he⟩ | ⟨-, -, he⟩ := s.deliver_cases c k (msgLen len) <;>
        cases he.symm.trans hu
      · exact .handed c k len q hheld hready.post_len_le (State.waiter_some_iff.mp hq)
      · exact .queued c k len hheld (State.waiter_none_iff.mp hnone) hroom

theorem recv_commandStep {s t : State} {p : Nat} {c : ChanId} {tmo : BitVec 16} (h : execRecv p c tmo s = .next t) :
    CommandStep p s (.recv p c tmo) t := by
  refine .prologue rfl (fun _ hbody => ?_) h
  split at hbody <;> cases hbody
  · next m rest hm => exact .received c tmo m rest hm
  · next hempty => exact .waits c tmo hempty

theorem bufRd_commandStep {s t : State} {p : Nat} {k : Handle} {off : BitVec 12} (h : execBufRd p k off s = .next t) :
    CommandStep p s (.bufRd p k off) t := by
  refine .prologue rfl (fun hready hbody => ?_) h
  split at hbody
  · next hholds =>
    cases hbody
    exact .fatal _ k hready (.of_not_holds (.inr (.inl ⟨off, rfl⟩)) hholds)
  · split at hbody <;> cases hbody
    exact .answered _ _ _ _

theorem bufWr_commandStep {s t : State} {p : Nat} {k : Handle} {off : BitVec 12} {b : Byte}
    (h : execBufWr p k off b s = .next t) : CommandStep p s (.bufWr p k off b) t := by
  refine .prologue rfl (fun hready hbody => ?_) h
  split at hbody
  · next hholds =>
    cases hbody
    exact .fatal _ k hready (.of_not_holds (.inr (.inr ⟨off, b, rfl⟩)) hholds)
  next hholds =>
    split at hbody <;> cases hbody
    next u hu =>
      obtain ⟨-, rfl, -⟩ := State.memWrite_spec hu
      exact .wrote k off b (State.holds_iff.mp (Bool.of_not_eq_false hholds))

theorem rbGet_commandStep {s t : State} {p : Nat} (h : execRbGet p s = .next t) : CommandStep p s (.rbGet p) t := by
  refine .prologue rfl (fun hready hbody => ?_) h
  split at hbody
  · next hne => cases hbody; exact .fatal _ _ hready (.inr (.inr (.inr ⟨rfl, hne, rfl, rfl⟩)))
  next hconsumer =>
    split at hbody <;> cases hbody
    · exact .answered _ _ _ _
    · next hempty => exact .took (not_not.mp hconsumer) (by simpa [State.ringEmpty] using hempty)

theorem rdstat_commandStep {s t : State} {p : Nat} {reg : Byte} (h : execRdstat p reg s = .next t) :
    CommandStep p s (.rdstat p reg) t := by
  obtain ⟨rc, rfl⟩ | ⟨-, -, hbody⟩ := prologue_next_cases h
  · exact .answered _ _ _ _
  · split at hbody <;> cases hbody <;> exact .answered _ _ _ _

/-- Everything a command can do. -/
theorem exec_commandStep {i : Instr} {p : Nat} {s t : State} (hp : i.port? = some p) (h : exec i s = .next t) :
    CommandStep p s i t := by
  cases i <;> cases hp
  case acquire => exact acquire_commandStep h
  case release => exact release_commandStep h
  case post => exact post_commandStep h
  case recv => exact recv_commandStep h
  case bufRd => exact bufRd_commandStep h
  case bufWr => exact bufWr_commandStep h
  case rbGet => exact rbGet_commandStep h
  case rdstat => exact rdstat_commandStep h

/-! ### The outcomes of a received byte -/

/-- The ways a received byte `b` can take `s` to a next state: the cases of 40_frame_decoder.md R140. -/
inductive RxStep (b : Byte) (s : State) : State → Prop
  | ignored : RxStep b s s
  | started (start : b = s.cfg.START) (running : s.halted = false) (off : s.decRcv = false) : RxStep b s (rxStart s)
  | stray (isEnd : b = s.cfg.END) (running : s.halted = false) (off : s.decRcv = false) : RxStep b s (s.diag .strayEnd)
  | ended (h : Handle) (receives : s.Receives h) (isEnd : b = s.cfg.END) : RxStep b s (rxEnd h s)
  | overflowed (h : Handle) (receives : s.Receives h) (notEnd : b ≠ s.cfg.END) (full : s.decCnt.toNat = s.cfg.S) :
    RxStep b s ((s.dropFrame h).diag .frameOverflow)
  | stored (h : Handle) (receives : s.Receives h) (notEnd : b ≠ s.cfg.END) (room : s.decCnt.toNat < s.cfg.S) :
    RxStep b s (s.storeByte h b)

/-- Everything a received byte can do. -/
theorem execRxByte_rxStep {s t : State} (hs : s.Inv) {b : Byte} (h : execRxByte b s = .next t) : RxStep b s t := by
  unfold execRxByte at h
  split at h
  · cases h; exact .ignored
  next hhalted =>
    have hrun := Bool.eq_false_iff.mpr hhalted
    split at h
    · next hoff =>
      split at h
      · next hstart => cases h; exact .started hstart hrun hoff
      · split at h <;> cases h
        · next hend => exact .stray hend hrun hoff
        · exact .ignored
    next hoff =>
      split at h
      · cases h
      next k hbuf =>
        have hrcv : s.Receives k := ⟨hrun, Bool.of_not_eq_false hoff, hbuf⟩
        split at h
        · next hend => cases h; exact .ended k hrcv hend
        next hend =>
          split at h
          · next hfull => cases h; exact .overflowed k hrcv hend hfull
          next hroom =>
            unfold rxPayload at h
            split at h <;> cases h
            next u hu =>
              obtain ⟨-, rfl, -⟩ := State.memWrite_spec hu
              exact .stored k hrcv hend (lt_of_le_of_ne hs.decCap hroom)

/-- A receiving decoder owns its buffer (10_state.md R41 item 1). -/
theorem State.Inv.ownerOf_of_receives {s : State} (hs : s.Inv) {h : Handle} (hrcv : s.Receives h) :
    s.ownerOf h = some .dec := (hs.decOwner h).mpr ⟨hrcv.receiving, hrcv.buffer⟩

/-! ### SCAN and TICK -/

theorem exec_scan_cases {s t : State} {s0 s1 : Bool} (h : exec (.scan s0 s1) s = .next t) :
    (s.halted = true ∧ t = s) ∨ (s.halted = false ∧ t = dbStep .in1 s1 (dbStep .in0 s0 s)) := by
  simp only [exec, execScan] at h
  split at h <;> cases h
  · next hhalted => exact .inl ⟨hhalted, rfl⟩
  · next hrun => exact .inr ⟨Bool.eq_false_iff.mpr hrun, rfl⟩

theorem exec_tick_cases {s t : State} (h : exec .tick s = .next t) :
    (s.halted = true ∧ t = s) ∨ (s.halted = false ∧ t = s.sweepPorts tickPort) := by
  simp only [exec, execTick] at h
  split at h <;> cases h
  · next hhalted => exact .inl ⟨hhalted, rfl⟩
  · next hrun => exact .inr ⟨Bool.eq_false_iff.mpr hrun, rfl⟩

end Sys2Proof.Machine

/-! PROOF. Which instruction frees a buffer (41_pool_channel.md R191). -/

namespace Sys2Proof.Machine

/-- Every buffer that is free in `t` is free in `s`. -/
def FreesNone (s t : State) : Prop := ∀ k, t.ownerOf k = some .free → s.ownerOf k = some .free

theorem FreesNone.refl (s : State) : FreesNone s s := fun _ => id

theorem FreesNone.of_sameTables {s t : State} (h : SameTables s t) : FreesNone s t := fun k hk =>
  (h.ownerOf k).symm.trans hk

/-- A buffer given to an owner is not free. -/
theorem FreesNone.setOwner (s : State) (h : Handle) {o : Owner} (ho : o ≠ .free) : FreesNone s (s.setOwner h o) := by
  intro k hk
  simp only [State.ownerOf, State.setOwner_owner, List.getElem?_set] at hk
  split at hk
  · split at hk
    · exact absurd (Option.some.inj hk) ho
    · cases hk
  · exact hk

/-- Instruction `i` gives buffer `h` back for its owner `o`. -/
inductive GivesBack (s : State) (h : Handle) : Instr → Owner → Prop
  | release (p : Nat) : GivesBack s h (.release p h) (.held p)
  | overflow (b : Byte) (notEnd : b ≠ s.cfg.END) (full : s.decCnt.toNat = s.cfg.S) : GivesBack s h (.rxByte b) .dec
  | frameLost (nobody : NoWaiter s 0#4) (noRoom : ¬ HasRoom s 0#4) : GivesBack s h (.rxByte s.cfg.END) .dec

/-- Instruction `i` frees no buffer or gives one back for its owner. -/
def FreesAsOwner (i : Instr) (s t : State) : Prop :=
  FreesNone s t ∨ ∃ k o, GivesBack s k i o ∧ s.ownerOf k = some o ∧ t.owner = (s.setOwner k .free).owner

theorem CommandStep.freesAsOwner {i : Instr} {p : Nat} {s t : State} (hstep : CommandStep p s i t) :
    FreesAsOwner i s t := by
  cases hstep with
  | answered rc h c v => exact .inl (.refl s)
  | fatal code h ready violates => exact .inl (.refl s)
  | acquired h alloc => exact .inl (.setOwner s h (by nofun))
  | released h held => exact .inr ⟨h, _, .release p, held, rfl⟩
  | handed c h len q held fits waiter => exact .inl (.setOwner s h (by nofun))
  | queued c h len held nobody room => exact .inl (.setOwner s h (by nofun))
  | received c tmo m rest oldest => exact .inl (.setOwner s m.h (by nofun))
  | waits c tmo empty => exact .inl (.refl s)
  | wrote h off b held => exact .inl (.refl s)
  | took consumer nonempty => exact .inl (.refl s)

theorem RxStep.freesAsOwner {b : Byte} {s t : State} (hs : s.Inv) (hstep : RxStep b s t) :
    FreesAsOwner (.rxByte b) s t := by
  cases hstep with
  | ignored => exact .inl (.refl s)
  | started start running off =>
    unfold rxStart
    split
    · exact .inl (.refl s)
    · next h halloc => exact .inl (.setOwner s h (by nofun))
  | stray isEnd running off => exact .inl (.refl s)
  | ended h receives isEnd =>
    subst isEnd
    obtain ⟨q, -, he⟩ | ⟨-, -, he⟩ | ⟨hwait, hfull, he⟩ := rxEnd_cases h s <;> rw [he]
    · exact .inl (.setOwner s h (by nofun))
    · exact .inl (.setOwner s h (by nofun))
    · exact .inr ⟨h, .dec, .frameLost hwait hfull, hs.ownerOf_of_receives receives, rfl⟩
  | overflowed h receives notEnd full =>
    exact .inr ⟨h, .dec, .overflow b notEnd full, hs.ownerOf_of_receives receives, rfl⟩
  | stored h receives notEnd room => exact .inl (.refl s)

/-- Every instruction but RESET frees a buffer only for its owner. -/
theorem exec_freesAsOwner {i : Instr} {s t : State} (hs : s.Inv) (h : exec i s = .next t) (hreset : i ≠ .reset) :
    FreesAsOwner i s t := by
  cases i with
  | rxByte b => exact (execRxByte_rxStep hs h).freesAsOwner hs
  | scan s0 s1 =>
    obtain ⟨-, rfl⟩ | ⟨-, rfl⟩ := exec_scan_cases h
    · exact .inl (.refl _)
    · exact .inl (.of_sameTables ((dbStep_sameTables .in0 s0 s).trans (dbStep_sameTables .in1 s1 _)))
  | tick => obtain ⟨-, rfl⟩ | ⟨-, rfl⟩ := exec_tick_cases h <;> exact .inl (.refl _)
  | reset => exact absurd rfl hreset
  | _ => exact (exec_commandStep rfl h).freesAsOwner

/-- The buffer that becomes free is the one given back. -/
theorem FreesAsOwner.givesBack {i : Instr} {s t : State} (hfrees : FreesAsOwner i s t) {h : Handle} {o : Owner}
    (howner : s.ownerOf h = some o) (ho : o ≠ .free) (hfree : t.ownerOf h = some .free) : GivesBack s h i o := by
  have hnfree : s.ownerOf h ≠ some .free := by simpa [howner] using ho
  obtain hnone | ⟨k, o', hgives, hk, ht⟩ := hfrees
  · exact absurd (hnone h hfree) hnfree
  have hset : (s.setOwner k .free).ownerOf h = some .free := by rwa [State.ownerOf, ← ht]
  rw [State.ownerOf_setOwner hk] at hset
  split at hset
  · next hhk =>
    subst hhk
    obtain rfl := Option.some.inj (hk.symm.trans howner)
    exact hgives
  · exact absurd hset hnfree

/-- Settles O52: of the three things a step can be, only an instruction frees a buffer, and RESET apart only for its
owner (`exec_freesAsOwner`). -/
theorem buffersAreFreedOnlyByTheirOwners : Obligations.BuffersAreFreedOnlyByTheirOwners := by
  intro s t h o hs hstep howner ho hfree
  obtain ⟨-, ⟨-, rfl⟩ | ⟨st, rest, i, htake, hdecode, hexec⟩ | ⟨_, _, _, _, -, -, -, rfl⟩⟩ := step_cases hstep
  · exact absurd (Option.some.inj (howner.symm.trans hfree)) ho
  · refine ⟨st, rest, htake, ?_⟩
    by_cases hreset : i = .reset
    · subst hreset
      exact .inr (.inr (.inr (eq_encode_of_decode_event hdecode rfl)))
    have hs' : State.Inv { s with inbox := rest } := { hs with }
    have hgives := (exec_freesAsOwner hs' hexec hreset).givesBack howner ho hfree
    cases hgives with
    | release p => exact .inl ⟨p, hdecode, rfl⟩
    | overflow b notEnd full =>
      exact .inr (.inl ⟨b, eq_encode_of_decode_event hdecode rfl, rfl, notEnd, full⟩)
    | frameLost nobody noRoom =>
      exact .inr (.inr (.inl ⟨eq_encode_of_decode_event hdecode rfl, rfl, nobody, noRoom⟩))
  · exact absurd (Option.some.inj (howner.symm.trans hfree)) ho

end Sys2Proof.Machine

/-! PROOF. How a waiting RECV ends (41_pool_channel.md R180): the ways one instruction can treat a waiting port
(`WaitStep`), read off the outcomes of the instructions. -/

namespace Sys2Proof.Machine

/-! ### Ports an operation does not answer -/

theorem KeepsPort.refl (p : Nat) (s : State) : KeepsPort p s s := ⟨rfl, rfl⟩

theorem KeepsPort.trans {p : Nat} {s t u : State} (hst : KeepsPort p s t) (htu : KeepsPort p t u) :
    KeepsPort p s u := by
  obtain ⟨hport, htrace⟩ := hst
  obtain ⟨hport', htrace'⟩ := htu
  exact ⟨hport'.trans hport, htrace'.trans htrace⟩

/-- A diagnostic event is no response (60_exceptions.md R282). -/
theorem KeepsPort.of_diag {p : Nat} {s t : State} {d : DiagCode} (hport : t.port = s.port)
    (htrace : t.trace = s.trace ++ [.diag d]) : KeepsPort p s t :=
  ⟨by rw [hport], by rw [htrace, answersOn_append]; exact List.append_nil _⟩

theorem KeepsPort.setPort_other {p q : Nat} (hqp : q ≠ p) (s : State) (ps : PortState) :
    KeepsPort p s (s.setPort q ps) := ⟨List.getElem?_set_ne hqp, rfl⟩

theorem KeepsPort.respond_other {p q : Nat} (hqp : q ≠ p) (s : State) (rc : Rc) (h : Handle) (c : ChanId)
    (v : BitVec 16) : KeepsPort p s (s.respond q rc h c v) :=
  ⟨List.getElem?_set_ne hqp, by simp [answersOn_append, answersOn, hqp]⟩

theorem KeepsPort.answer_other {p q : Nat} (hqp : q ≠ p) (s : State) (rc : Rc) : KeepsPort p s (s.answer q rc) :=
  .respond_other hqp s rc _ _ _

theorem push_keepsPort (p : Nat) (i : DbInput) (s : State) : KeepsPort p s (push i s) := by
  unfold push
  obtain ⟨-, he⟩ | ⟨-, u, he, hu, -⟩ := s.ringPut_cases (eventCode s.cfg i) <;> rw [he]
  · exact .of_diag (d := .ringFull) (State.setDb_port s i _) (by simp)
  · rw [hu]; cases i <;> exact .refl p s

theorem dbStep_keepsPort (p : Nat) (i : DbInput) (smp : Bool) (s : State) : KeepsPort p s (dbStep i smp s) := by
  have hset (d : DbState) : KeepsPort p s (s.setDb i d) := by cases i <;> exact .refl p s
  unfold dbStep
  split
  · exact hset _
  · exact hset _
  · exact push_keepsPort p i s
  · exact hset _
  · exact push_keepsPort p i s

/-! ### Ports an operation completes -/

theorem EndsIdle.respond {s : State} {p : Nat} {ps : PortState} (hp : s.port[p]? = some ps) (rc : Rc) (h : Handle)
    (c : ChanId) (v : BitVec 16) : EndsIdle p [responseWord rc h c v] s (s.respond p rc h c v) := by
  obtain ⟨hlt, -⟩ := List.getElem?_eq_some_iff.mp hp
  exact ⟨by simp [hlt], by simp [answersOn_append, answersOn]⟩

theorem EndsIdle.of_keepsPort {p : Nat} {ws : List Word} {s t u : State} (hst : EndsIdle p ws s t)
    (htu : KeepsPort p t u) : EndsIdle p ws s u := by
  obtain ⟨hport, htrace⟩ := hst
  obtain ⟨hport', htrace'⟩ := htu
  exact ⟨hport'.trans hport, htrace'.trans htrace⟩

theorem EndsIdle.takeFatal {s : State} {p q : Nat} {c : ChanId} {r : Remaining}
    (hwait : s.port[p]? = some (.wait c r)) (hqp : q ≠ p) (code : FatalCode) (h : Handle) :
    EndsIdle p [haltedWord] s (takeFatal code q h s) := by
  have hsweep := ((s.recordFatal code q h).diag .fatal).sweepPorts_answersOn haltPort p
  have hdiag : answersOn p ((s.recordFatal code q h).diag .fatal).trace = answersOn p s.trace := by
    simp [answersOn_append, answersOn]
  refine EndsIdle.of_keepsPort (t := ((s.recordFatal code q h).diag .fatal).sweepPorts haltPort) ⟨?_, ?_⟩
    (.answer_other hqp _ .halted)
  · simp [hwait, haltPort]
  · rw [hsweep, hdiag]
    simp [hwait, sweepWord, haltPort]

/-! ### A waiting port in one instruction -/

/-- Instruction `i` sends the message `(h, len)` to channel `c`: a POST, or the END of the frame in `h`. -/
def Carries (i : Instr) (s : State) (c : ChanId) (h : Handle) (len : BitVec 16) : Prop :=
  (∃ q, i = .post q c h len) ∨
    (i = .rxByte s.cfg.END ∧ c = 0#4 ∧ s.decH = some h ∧ len.toNat = s.decCnt.toNat)

/-- The ways instruction `i` can treat a port `p` that is `WAIT(c, r)`. -/
inductive WaitStep (i : Instr) (p : Nat) (c : ChanId) (r : Remaining) (s t : State) : Prop
  | waits (keeps : KeepsPort p s t) (untimed : i = .tick → r = .forever)
  | counted (n : BitVec 16) (tick : i = .tick) (count : r = .ticks n) (more : n ≠ 1#16)
      (port : t.port[p]? = some (.wait c (.ticks (n - 1#16)))) (silent : answersOn p t.trace = answersOn p s.trace)
  | delivered (h : Handle) (len : BitVec 16) (lowest : LowestWaiter s c p) (carries : Carries i s c h len)
      (held : t.ownerOf h = some (.held p)) (done : EndsIdle p [responseWord .ok h c len] s t)
  | timedOut (tick : i = .tick) (last : r = .ticks 1#16) (done : EndsIdle p [timeoutWord] s t)
  | halted (halt : t.halted = true) (done : EndsIdle p [haltedWord] s t)
  | abandoned (reset : i = .reset) (done : EndsIdle p [] s t)

section

variable {s t : State} {p : Nat} {c : ChanId} {r : Remaining} (hs : s.Inv) (hwait : s.port[p]? = some (.wait c r))
include hs hwait

/-- A port waits only in a running block (10_state.md R41 item 7). -/
theorem running_of_waiting : s.halted = false :=
  Bool.eq_false_iff.mpr fun hh => PortState.noConfusion (hs.haltedIdle hh _ (List.mem_of_getElem? hwait))

omit hs in
/-- The lowest port waiting on a channel, if it is this one, waits on this one's channel. -/
theorem chan_eq_of_lowestWaiter {d : ChanId} (hlow : LowestWaiter s d p) : d = c := by
  obtain ⟨⟨_, hport⟩, -⟩ := hlow
  cases hport.symm.trans hwait
  rfl

/-- A command of another port completes the RECV when it halts the block or hands it a buffer. -/
theorem CommandStep.waitStep {i : Instr} {q : Nat} (hstep : CommandStep q s i t) (hi : i.port? = some q) (hqp : q ≠ p) :
    WaitStep i p c r s t := by
  have hnotTick : i = .tick → r = .forever := by
    rintro rfl
    cases hi
  cases hstep with
  | answered rc h d v => exact .waits (.respond_other hqp s rc h d v) hnotTick
  | fatal code h ready violates => exact .halted rfl (.takeFatal hwait hqp code h)
  | acquired h alloc => exact .waits (.respond_other hqp (s.setOwner h (.held q)) .ok h _ _) hnotTick
  | released h held => exact .waits (.answer_other hqp (s.setOwner h .free) .ok) hnotTick
  | handed d h len q' held fits waiter =>
    rw [msgLen_setWidth_of_le hs.legal fits]
    by_cases hq : q' = p
    · subst hq
      obtain rfl := chan_eq_of_lowestWaiter hwait waiter
      have hheld : (s.setOwner h (.held q')).ownerOf h = some (.held q') :=
        (State.ownerOf_setOwner held _ h).trans (if_pos rfl)
      have hdone := EndsIdle.respond (s := s.setOwner h (.held q')) hwait .ok h d len
      exact .delivered h len waiter (.inl ⟨q, rfl⟩) hheld (hdone.of_keepsPort (.answer_other hqp _ .ok))
    · have hother := KeepsPort.respond_other hq (s.setOwner h (.held q')) .ok h d len
      exact .waits (hother.trans (.answer_other hqp _ .ok)) hnotTick
  | queued d h len held nobody room => exact .waits (.answer_other hqp (s.enqueue d h (msgLen len)) .ok) hnotTick
  | received d tmo m rest oldest =>
    exact .waits (.respond_other hqp ((s.setChan d rest).setOwner m.h (.held q)) .ok m.h d _) hnotTick
  | waits d tmo empty => exact .waits (.setPort_other hqp s (recvWait d tmo)) hnotTick
  | wrote h off b held =>
    exact .waits (.answer_other hqp { s with pool := Memory.write s.pool (poolAddr s.cfg h off.toNat) b } .ok) hnotTick
  | took consumer nonempty =>
    exact .waits (.respond_other hqp { s with rbRd := ringNext s.cfg s.rbRd, rbCnt := s.rbCnt - 1#16 } .ok _ _ _)
      hnotTick

/-- A received byte completes the RECV when it is the END of a frame handed to it. -/
theorem RxStep.waitStep {b : Byte} (hstep : RxStep b s t) : WaitStep (.rxByte b) p c r s t := by
  cases hstep with
  | ignored => exact .waits (.refl p s) nofun
  | started start running off =>
    unfold rxStart
    split
    · exact .waits (.of_diag (d := .poolExhausted) rfl rfl) nofun
    · exact .waits (.refl p s) nofun
  | stray isEnd running off => exact .waits (.of_diag (d := .strayEnd) rfl rfl) nofun
  | ended h receives isEnd =>
    subst isEnd
    obtain ⟨q, hq, he⟩ | ⟨-, -, he⟩ | ⟨-, -, he⟩ := rxEnd_cases h s <;> rw [he]
    · by_cases hqp : q = p
      · subst hqp
        obtain rfl := chan_eq_of_lowestWaiter hwait hq
        have hheld : (s.setOwner h (.held q)).ownerOf h = some (.held q) :=
          (State.ownerOf_setOwner (hs.ownerOf_of_receives receives) _ h).trans (if_pos rfl)
        exact .delivered h (s.decCnt.setWidth 16) hq
          (.inr ⟨rfl, rfl, receives.buffer, msgLen_setWidth_toNat s.decCnt⟩) hheld
          (EndsIdle.respond (s := s.setOwner h (.held q)) hwait .ok h 0#4 _)
      · exact .waits (.respond_other hqp (s.setOwner h (.held q)) .ok h 0#4 _) nofun
    · exact .waits (.refl p s) nofun
    · exact .waits (.of_diag (d := .channelFull) rfl rfl) nofun
  | overflowed h receives notEnd full => exact .waits (.of_diag (d := .frameOverflow) rfl rfl) nofun
  | stored h receives notEnd room => exact .waits (.refl p s) nofun

/-- A TICK completes the RECV when it is the last of its timeout. -/
theorem tick_waitStep (h : exec .tick s = .next t) : WaitStep .tick p c r s t := by
  have hrun := running_of_waiting hs hwait
  cases (exec_tick_of_running hrun).symm.trans h
  cases r with
  | forever => exact .waits (.tick_forever hwait) fun _ => rfl
  | ticks n =>
    by_cases hn : n = 1#16
    · subst hn
      exact .timedOut rfl rfl (.lastTick hwait)
    · obtain ⟨hport, htrace⟩ := tick_counts hwait hn
      exact .counted n rfl rfl hn hport htrace

/-- RESET makes every port the build has IDLE (70_reset_and_hazards.md R320). -/
theorem EndsIdle.resetBlock : EndsIdle p [] s (resetBlock s) := by
  refine ⟨?_, (List.append_nil _).symm⟩
  rw [resetBlock_port, List.getElem?_replicate, if_pos (hs.port_lt hwait)]

/-- Everything an instruction can do to a waiting port. -/
theorem exec_waitStep {i : Instr} (h : exec i s = .next t) : WaitStep i p c r s t := by
  cases hi : i.port? with
  | some q =>
    have hqp : q ≠ p := by
      obtain ⟨body, hbody⟩ := exec_eq_prologue s hi
      rintro rfl
      cases (port_idle_of_prologue (hbody.symm.trans h)).symm.trans hwait
    exact (exec_commandStep hi h).waitStep hs hwait hi hqp
  | none =>
    cases i with
    | rxByte b => exact (execRxByte_rxStep hs h).waitStep hs hwait
    | scan s0 s1 =>
      obtain ⟨-, rfl⟩ | ⟨-, rfl⟩ := exec_scan_cases h
      · exact .waits (.refl p _) nofun
      · exact .waits ((dbStep_keepsPort p .in0 s0 s).trans (dbStep_keepsPort p .in1 s1 _)) nofun
    | tick => exact tick_waitStep hs hwait h
    | reset => cases h; exact .abandoned rfl (.resetBlock hs hwait)
    | _ => cases hi

end

/-- Settles O28: of the three things a step can be, the idle step and the answer to an illegal word leave the port
waiting, and an instruction treats it in one of the ways of `WaitStep`. -/
theorem waitingRecvEndsInOneOfThreeWays : Obligations.WaitingRecvEndsInOneOfThreeWays := by
  intro s t p c r hs hwait hstep
  obtain ⟨-, ⟨hnone, rfl⟩ | ⟨st, rest, i, htake, hdecode, hexec⟩ | ⟨q, w, rest, _, htake, -, hidle, rfl⟩⟩ :=
    step_cases hstep
  · exact .inl ⟨hwait, rfl, fun rest htake => by cases hnone.symm.trans htake⟩
  · have hs' : State.Inv { s with inbox := rest } := { hs with }
    cases exec_waitStep hs' hwait hexec with
    | waits keeps untimed =>
      obtain ⟨hport, htrace⟩ := keeps
      refine .inl ⟨hport.trans hwait, htrace, fun rest' htick => untimed ?_⟩
      cases htake.symm.trans htick
      cases hdecode
      rfl
    | counted n tick count more port silent =>
      subst tick
      obtain rfl := eq_encode_of_decode_event hdecode rfl
      exact .inr (.inl ⟨rest, n, htake, count, more, port, silent⟩)
    | delivered h len lowest carries held done =>
      obtain ⟨hport, htrace⟩ := done
      refine .inr (.inr (.inl ⟨st, rest, _, h, len, htake, lowest, ?_, responseWord_fields .ok h c len, hport, held,
        htrace⟩))
      obtain ⟨q, rfl⟩ | ⟨rfl, hframe⟩ := carries
      · exact .inl ⟨q, hdecode⟩
      · exact .inr ⟨eq_encode_of_decode_event hdecode rfl, hframe⟩
    | timedOut tick last done =>
      subst tick
      obtain rfl := eq_encode_of_decode_event hdecode rfl
      exact .inr (.inr (.inr (.inl ⟨rest, htake, last, done⟩)))
    | halted halt done => exact .inr (.inr (.inr (.inr (.inl ⟨running_of_waiting hs hwait, halt, done⟩))))
    | abandoned reset done =>
      subst reset
      obtain rfl := eq_encode_of_decode_event hdecode rfl
      obtain ⟨hport, htrace⟩ := done
      exact .inr (.inr (.inr (.inr (.inr ⟨rest, htake, hport, htrace.trans (List.append_nil _)⟩))))
  · have hqp : q ≠ p := by
      rintro rfl
      cases hidle.symm.trans hwait
    obtain ⟨hport, htrace⟩ := KeepsPort.answer_other hqp { s with inbox := rest } .illegal
    exact .inl ⟨hport.trans hwait, htrace, fun rest' htick => by cases htake.symm.trans htick⟩

end Sys2Proof.Machine

/-! PROOF. The Debounce Scanner (42_debounce.md R220 to R227): what a push and one sample of one input do, said once,
and from that what a SCAN and a run of SCANs do. -/

namespace Sys2Proof.Machine

/-! ### An entry put into the ring -/

/-- The state with `v` put behind the ring's last entry (43_ring_buffer.md R240). -/
def State.putEntry (s : State) (v : Byte) : State :=
  { s with
    rbStore := Memory.write s.rbStore s.rbWr.toNat v
    rbWr := ringNext s.cfg s.rbWr
    rbCnt := s.rbCnt + 1#16 }

@[simp] theorem State.putEntry_cfg (s : State) (v : Byte) : (s.putEntry v).cfg = s.cfg := rfl
@[simp] theorem State.putEntry_halted (s : State) (v : Byte) : (s.putEntry v).halted = s.halted := rfl
@[simp] theorem State.putEntry_rbRd (s : State) (v : Byte) : (s.putEntry v).rbRd = s.rbRd := rfl
@[simp] theorem State.putEntry_trace (s : State) (v : Byte) : (s.putEntry v).trace = s.trace := rfl
@[simp] theorem State.putEntry_dbSt (s : State) (v : Byte) (i : DbInput) : (s.putEntry v).dbSt i = s.dbSt i := by
  cases i <;> rfl

theorem State.ringPut_of_room {s : State} (v : Byte) (hroom : s.rbCnt.toNat ≠ s.cfg.C) :
    s.ringPut v = some (s.putEntry v) := by
  simp [State.ringPut, State.ringFull, hroom, State.putEntry]

theorem State.ringPut_of_full {s : State} (v : Byte) (hfull : s.rbCnt.toNat = s.cfg.C) : s.ringPut v = none := by
  simp [State.ringPut, State.ringFull, hfull]

theorem State.putEntry_ringByte_same (s : State) (v : Byte) : (s.putEntry v).ringByte s.rbWr.toNat = v := by
  simp [State.putEntry, State.ringByte]

theorem State.putEntry_ringByte_other (s : State) (v : Byte) {j : Nat} (hj : j ≠ s.rbWr.toNat) :
    (s.putEntry v).ringByte j = s.ringByte j := by
  simp [State.putEntry, State.ringByte, Memory.read_write_other _ _ hj]

theorem State.putEntry_rbCnt_le (s : State) (v : Byte) : (s.putEntry v).rbCnt.toNat ≤ s.rbCnt.toNat + 1 := by
  change (s.rbCnt + 1#16).toNat ≤ s.rbCnt.toNat + 1
  bv_omega

section Room

variable {s : State} (hs : s.Inv) (hroom : s.rbCnt.toNat < s.cfg.C)
include hs hroom

theorem State.Inv.putEntry (v : Byte) : (s.putEntry v).Inv := hs.ringPut (State.ringPut_of_room v hroom.ne)

/-- The count does not wrap: `C` is at most 65535. -/
theorem State.Inv.putEntry_rbCnt (v : Byte) : (s.putEntry v).rbCnt.toNat = s.rbCnt.toNat + 1 := by
  obtain ⟨-, -, -, -, -, -, ⟨-, hC⟩, -⟩ := (Config.legal_iff s.cfg).mp hs.legal
  change (s.rbCnt + 1#16).toNat = s.rbCnt.toNat + 1
  bv_omega

/-- The put slot is behind every queued one, none of which it is: fewer than `C` are queued. -/
theorem State.Inv.putEntry_ringEntries (v : Byte) : (s.putEntry v).ringEntries = s.ringEntries ++ [v] := by
  have hold : ∀ k ∈ List.range s.rbCnt.toNat,
      (s.putEntry v).ringByte ((s.rbRd.toNat + k) % s.cfg.C) = s.ringByte ((s.rbRd.toNat + k) % s.cfg.C) := by
    intro k hk
    have hlt := List.mem_range.mp hk
    refine s.putEntry_ringByte_other v fun hslot => hlt.ne ?_
    exact (Nat.ModEq.add_left_cancel' _ (hslot.trans hs.ringWr)).eq_of_lt_of_lt (hlt.trans hroom) hroom
  have hnew : (s.putEntry v).ringByte ((s.rbRd.toNat + s.rbCnt.toNat) % s.cfg.C) = v :=
    hs.ringWr ▸ s.putEntry_ringByte_same v
  simp only [State.ringEntries, hs.putEntry_rbCnt hroom, List.range_succ, List.map_append, List.map_singleton,
    State.putEntry_rbRd, State.putEntry_cfg, hnew, List.map_congr_left hold]

end Room

/-! ### The ring and the debounce states under an update of the other -/

@[simp] theorem State.setDb_ringByte (s : State) (i : DbInput) (d : DbState) (j : Nat) :
    (s.setDb i d).ringByte j = s.ringByte j := by
  cases i <;> rfl

@[simp] theorem State.setDb_ringEntries (s : State) (i : DbInput) (d : DbState) :
    (s.setDb i d).ringEntries = s.ringEntries := by
  cases i <;> rfl

@[simp] theorem State.diag_ringEntries (s : State) (d : DiagCode) : (s.diag d).ringEntries = s.ringEntries := rfl

@[simp] theorem State.diag_dbSt (s : State) (d : DiagCode) (i : DbInput) : (s.diag d).dbSt i = s.dbSt i := by
  cases i <;> rfl

theorem State.setDb_dbSt_self (s : State) (i : DbInput) : s.setDb i (s.dbSt i) = s := by cases i <;> rfl

theorem State.setDb_setDb (s : State) (i : DbInput) (d d' : DbState) : (s.setDb i d).setDb i d' = s.setDb i d' := by
  cases i <;> rfl

theorem State.setDb_putEntry (s : State) (i : DbInput) (d : DbState) (v : Byte) :
    (s.setDb i d).putEntry v = (s.putEntry v).setDb i d := by
  cases i <;> rfl

/-! ### One sample of one input -/

section Sample

variable {s : State} {i : DbInput} {smp : Bool}

theorem push_of_room (hroom : s.rbCnt.toNat ≠ s.cfg.C) :
    push i s = (s.putEntry (eventCode s.cfg i)).setDb i .idle := by
  rw [push, State.ringPut_of_room _ hroom]

theorem push_of_full (hfull : s.rbCnt.toNat = s.cfg.C) : push i s = (s.setDb i .confirmed).diag .ringFull := by
  rw [push, State.ringPut_of_full _ hfull]

theorem dbStep_of_idle (hst : s.dbSt i = .idle) :
    dbStep i smp s = s.setDb i (if smp then .candidate else .idle) := by
  cases smp <;> simp [dbStep, hst]

theorem dbStep_of_idle_released (hst : s.dbSt i = .idle) : dbStep i false s = s := by
  rw [dbStep_of_idle hst]
  exact hst ▸ s.setDb_dbSt_self i

theorem dbStep_of_candidate_pressed (hst : s.dbSt i = .candidate) : dbStep i true s = push i s := by
  simp [dbStep, hst]

theorem dbStep_of_candidate_released (hst : s.dbSt i = .candidate) : dbStep i false s = s.setDb i .idle := by
  simp [dbStep, hst]

/-- R222: whatever the sample. -/
theorem dbStep_of_confirmed (hst : s.dbSt i = .confirmed) : dbStep i smp s = push i s := by
  simp [dbStep, hst]

end Sample

/-- The ways one sample of input `i` can take `s` to a next state. -/
inductive DbOutcome (i : DbInput) (s : State) : State → Prop
  /-- Nothing is pushed. -/
  | moved (d : DbState) : DbOutcome i s (s.setDb i d)
  /-- The event code is queued. -/
  | queued (room : s.rbCnt.toNat ≠ s.cfg.C) : DbOutcome i s ((s.putEntry (eventCode s.cfg i)).setDb i .idle)
  /-- The full ring refuses the event code. -/
  | refused (full : s.rbCnt.toNat = s.cfg.C) : DbOutcome i s ((s.setDb i .confirmed).diag .ringFull)

theorem push_outcome (i : DbInput) (s : State) : DbOutcome i s (push i s) := by
  by_cases hfull : s.rbCnt.toNat = s.cfg.C
  · rw [push_of_full hfull]; exact .refused hfull
  · rw [push_of_room hfull]; exact .queued hfull

/-- Everything one sample of one input can do. -/
theorem dbStep_outcome (i : DbInput) (smp : Bool) (s : State) : DbOutcome i s (dbStep i smp s) := by
  unfold dbStep
  split
  · exact .moved _
  · exact .moved _
  · exact push_outcome i s
  · exact .moved _
  · exact push_outcome i s

namespace DbOutcome

variable {s t : State} {i : DbInput}

theorem cfg_eq (h : DbOutcome i s t) : t.cfg = s.cfg := by cases h <;> simp

theorem rbRd_eq (h : DbOutcome i s t) : t.rbRd = s.rbRd := by cases h <;> simp

/-- R225: the other input's state is not written. -/
theorem dbSt_other (h : DbOutcome i s t) {j : DbInput} (hj : j ≠ i) : t.dbSt j = s.dbSt j := by
  cases h <;> simp [State.setDb_dbSt_other _ _ _ _ hj]

theorem rbCnt_le (h : DbOutcome i s t) : t.rbCnt.toNat ≤ s.rbCnt.toNat + 1 := by
  cases h with
  | moved d => simp
  | queued room => simpa using s.putEntry_rbCnt_le _
  | refused full => simp

/-- A full ring is left as it is. -/
theorem of_full (h : DbOutcome i s t) (hfull : s.rbCnt.toNat = s.cfg.C) :
    t.rbCnt = s.rbCnt ∧ t.ringEntries = s.ringEntries := by
  cases h with
  | moved d => simp
  | queued room => exact absurd hfull room
  | refused full => simp

theorem ringEntries_extend (h : DbOutcome i s t) (hs : s.Inv) : ∃ more, t.ringEntries = s.ringEntries ++ more := by
  cases h with
  | moved d => exact ⟨[], by simp⟩
  | queued room =>
    exact ⟨_, (State.setDb_ringEntries _ _ _).trans (hs.putEntry_ringEntries (lt_of_le_of_ne hs.ringCap room) _)⟩
  | refused full => exact ⟨[], by simp⟩

theorem diags_extend (h : DbOutcome i s t) : ∃ ds, diagsOf t.trace = diagsOf s.trace ++ ds := by
  cases h with
  | moved d => exact ⟨[], by simp⟩
  | queued room => exact ⟨[], by simp⟩
  | refused full => exact ⟨[.ringFull], by simp [diagsOf_append, diagsOf]⟩

end DbOutcome

/-! ### One SCAN -/

theorem exec_scan_of_running {s : State} (hrun : s.halted = false) (s0 s1 : Bool) :
    exec (.scan s0 s1) s = .next (dbStep .in1 s1 (dbStep .in0 s0 s)) := by
  simp [exec, execScan, hrun]

theorem push_pushed (i : DbInput) (s : State) : Pushed i s (push i s) := by
  refine ⟨fun hroom => ?_, fun hfull => (push_of_full hfull).trans (by cases i <;> rfl)⟩
  rw [push_of_room hroom, State.setDb_ringByte, State.putEntry_ringByte_same]
  exact ⟨by cases i <;> rfl, by cases i <;> rfl,
    fun j hj => (State.setDb_ringByte _ _ _ _).trans (s.putEntry_ringByte_other _ hj)⟩

/-- A sample takes its input where the table of R221 says. -/
theorem dbStep_dbStepped (i : DbInput) (smp : Bool) (s : State) : DbStepped i smp s (dbStep i smp s) := by
  refine ⟨?_, ?_, ?_, ?_, fun hst => dbStep_of_confirmed hst ▸ push_pushed i s⟩
  · rintro hst rfl
    exact dbStep_of_idle hst
  · rintro hst rfl
    exact dbStep_of_idle hst
  · rintro hst rfl
    exact dbStep_of_candidate_pressed hst ▸ push_pushed i s
  · rintro hst rfl
    exact dbStep_of_candidate_released hst

/-- Settles O36: the state between is the one input 0's sample leaves (`dbStep_dbStepped`). -/
theorem scanStepsInput0ThenInput1 : Obligations.ScanStepsInput0ThenInput1 := fun s s0 s1 =>
  ⟨fun hhalted => by simp [exec, execScan, hhalted], fun hrun =>
    ⟨dbStep .in0 s0 s, _, exec_scan_of_running hrun s0 s1, dbStep_dbStepped .in0 s0 s, dbStep_dbStepped .in1 s1 _⟩⟩

/-- Settles O37: a CONFIRMED input pushes, and the other input's sample in the same SCAN leaves its state, only adds
entries and events, and takes at most one slot (`DbOutcome`). -/
theorem refusedPushIsRetried : Obligations.RefusedPushIsRetried := by
  intro s s0 s1 hs hrun
  have hfirst := dbStep_outcome .in0 s0 s
  have hsecond := dbStep_outcome .in1 s1 (dbStep .in0 s0 s)
  have hkeep0 : (dbStep .in1 s1 (dbStep .in0 s0 s)).dbSt .in0 = (dbStep .in0 s0 s).dbSt .in0 :=
    hsecond.dbSt_other nofun
  have hkeep1 : (dbStep .in0 s0 s).dbSt .in1 = s.dbSt .in1 := hfirst.dbSt_other nofun
  refine ⟨_, exec_scan_of_running hrun s0 s1, fun (hst : s.dbSt .in0 = .confirmed) hfull => ?_,
    fun (hst : s.dbSt .in0 = .confirmed) hroom => ?_, fun hst hfull => ?_, fun hst hroom => ?_⟩
  · have hpush : dbStep .in0 s0 s = (s.setDb .in0 .confirmed).diag .ringFull :=
      (dbStep_of_confirmed hst).trans (push_of_full hfull)
    obtain ⟨ds, hds⟩ := hsecond.diags_extend
    rw [hpush] at hsecond hkeep0 hds ⊢
    exact ⟨hkeep0, (hsecond.of_full hfull).2, ds, by simpa [diagsOf_append, diagsOf] using hds⟩
  · have hpush : dbStep .in0 s0 s = (s.putEntry s.cfg.EV0).setDb .in0 .idle :=
      (dbStep_of_confirmed hst).trans (push_of_room hroom.ne)
    obtain ⟨more, hmore⟩ := hsecond.ringEntries_extend (hs.dbStep .in0 s0)
    rw [hpush] at hkeep0 hmore ⊢
    exact ⟨hkeep0, more, by simpa [hs.putEntry_ringEntries hroom] using hmore⟩
  · obtain ⟨hcnt, hentries⟩ := hfirst.of_full hfull
    have hfull' : (dbStep .in0 s0 s).rbCnt.toNat = (dbStep .in0 s0 s).cfg.C := by rw [hcnt, hfirst.cfg_eq, hfull]
    obtain ⟨ds, hds⟩ := hfirst.diags_extend
    rw [dbStep_of_confirmed (hkeep1.trans hst), push_of_full hfull']
    exact ⟨rfl, hentries, ds, by simp [diagsOf_append, diagsOf, hds]⟩
  · have hroom' : (dbStep .in0 s0 s).rbCnt.toNat < (dbStep .in0 s0 s).cfg.C := by
      rw [hfirst.cfg_eq]; exact hfirst.rbCnt_le.trans_lt hroom
    obtain ⟨more, hmore⟩ := hfirst.ringEntries_extend hs
    rw [dbStep_of_confirmed (hkeep1.trans hst), push_of_room hroom'.ne]
    exact ⟨rfl, more, by simp [(hs.dbStep .in0 s0).putEntry_ringEntries hroom', hmore, hfirst.cfg_eq, eventCode]⟩

/-- Where one sample takes the state of its input, by the table of R221; `full` says whether the ring is. -/
def DbState.next (full smp : Bool) : DbState → DbState
  | .idle => if smp then .candidate else .idle
  | .candidate => if smp then (if full then .confirmed else .idle) else .idle
  | .confirmed => if full then .confirmed else .idle

theorem push_dbSt_same (i : DbInput) (s : State) :
    (push i s).dbSt i = if s.ringFull then .confirmed else .idle := by
  by_cases hfull : s.rbCnt.toNat = s.cfg.C
  · simp [push_of_full hfull, State.ringFull, hfull]
  · simp [push_of_room hfull, State.ringFull, hfull]

theorem dbStep_dbSt_same (i : DbInput) (smp : Bool) (s : State) :
    (dbStep i smp s).dbSt i = (s.dbSt i).next s.ringFull smp := by
  unfold dbStep
  split <;> next hst => rw [hst]; simp [push_dbSt_same, DbState.next]

/-- With room for two or for none, one input's sample does not decide whether the other finds the ring full. -/
theorem dbStep_ringFull (i : DbInput) (smp : Bool) {s : State}
    (hcnt : s.rbCnt.toNat + 1 < s.cfg.C ∨ s.rbCnt.toNat = s.cfg.C) : (dbStep i smp s).ringFull = s.ringFull := by
  have hout := dbStep_outcome i smp s
  rw [State.ringFull, State.ringFull, hout.cfg_eq]
  obtain hroom | hfull := hcnt
  · have := hout.rbCnt_le
    exact decide_eq_decide.mpr (by omega)
  · rw [(hout.of_full hfull).1]

/-- Settles O40: a sample leaves the other input's state, and what it takes its own to depends on that state and on
whether the ring is full (`dbStep_dbSt_same`). -/
theorem inputsAreIndependent : Obligations.InputsAreIndependent := by
  intro s hrun
  refine ⟨fun s0 s1 s1' => ⟨_, _, exec_scan_of_running hrun s0 s1, exec_scan_of_running hrun s0 s1', ?_⟩,
    fun hcnt _ s0 s0' s1 => ⟨_, _, exec_scan_of_running hrun s0 s1, exec_scan_of_running hrun s0' s1, ?_⟩⟩
  · have hkeep (smp : Bool) : (dbStep .in1 smp (dbStep .in0 s0 s)).dbSt .in0 = (dbStep .in0 s0 s).dbSt .in0 :=
      (dbStep_outcome .in1 smp _).dbSt_other nofun
    exact (hkeep s1).trans (hkeep s1').symm
  · have hnext (smp : Bool) :
        (dbStep .in1 s1 (dbStep .in0 smp s)).dbSt .in1 = (s.dbSt .in1).next s.ringFull s1 := by
      have hkeep : (dbStep .in0 smp s).dbSt .in1 = s.dbSt .in1 := (dbStep_outcome .in0 smp s).dbSt_other nofun
      rw [dbStep_dbSt_same, dbStep_ringFull .in0 smp hcnt, hkeep]
    exact (hnext s0).trans (hnext s0').symm

/-! ### Runs of SCANs in which one input is pressed -/

/-- The SCAN in which input `i` reads `smp` and the other input reads deasserted. -/
def scanOnly : DbInput → Bool → Instr
  | .in0, smp => .scan smp false
  | .in1, smp => .scan false smp

theorem exec_scanOnly {s : State} {i : DbInput} (smp : Bool) (hrun : s.halted = false)
    (hother : ∀ j, j ≠ i → s.dbSt j = .idle) : exec (scanOnly i smp) s = .next (dbStep i smp s) := by
  cases i with
  | in0 =>
    have hkeep : (dbStep .in0 smp s).dbSt .in1 = s.dbSt .in1 := (dbStep_outcome .in0 smp s).dbSt_other nofun
    rw [scanOnly, exec_scan_of_running hrun, dbStep_of_idle_released (hkeep.trans (hother .in1 nofun))]
  | in1 => rw [scanOnly, exec_scan_of_running hrun, dbStep_of_idle_released (hother .in0 nofun)]

section Quiet

variable {s : State} (hrun : s.halted = false) (hidle : ∀ j, s.dbSt j = .idle)
include hrun hidle

theorem exec_press (i : DbInput) : exec (scanOnly i true) s = .next (s.setDb i .candidate) := by
  rw [exec_scanOnly true hrun fun j _ => hidle j, dbStep_of_idle (hidle i), if_pos rfl]

theorem exec_scanOnly_after_press (i : DbInput) (smp : Bool) :
    execAll [scanOnly i true, scanOnly i smp] s = .next (dbStep i smp (s.setDb i .candidate)) := by
  have hrun' : (s.setDb i .candidate).halted = false := (State.setDb_halted _ _ _).trans hrun
  have hother (j : DbInput) (hj : j ≠ i) : (s.setDb i .candidate).dbSt j = .idle :=
    (State.setDb_dbSt_other _ _ _ _ hj).trans (hidle j)
  rw [execAll_cons_of_next (exec_press hrun hidle i), execAll_cons_of_next (exec_scanOnly smp hrun' hother), execAll]

/-- Two consecutive asserted samples queue the event code and do nothing else (R223). -/
theorem execAll_press_press (i : DbInput) (hroom : s.rbCnt.toNat < s.cfg.C) :
    execAll [scanOnly i true, scanOnly i true] s = .next (s.putEntry (eventCode s.cfg i)) := by
  have hroom' : (s.setDb i .candidate).rbCnt.toNat ≠ (s.setDb i .candidate).cfg.C := by simpa using hroom.ne
  have hself : (s.putEntry (eventCode s.cfg i)).dbSt i = .idle := (State.putEntry_dbSt _ _ i).trans (hidle i)
  rw [exec_scanOnly_after_press hrun hidle, dbStep_of_candidate_pressed (State.setDb_dbSt_same _ _ _),
    push_of_room hroom', State.setDb_cfg, State.setDb_putEntry, State.setDb_setDb, ← hself, State.setDb_dbSt_self]

/-- An isolated asserted sample leaves nothing behind (R223). -/
theorem execAll_press_release (i : DbInput) : execAll [scanOnly i true, scanOnly i false] s = .next s := by
  rw [exec_scanOnly_after_press hrun hidle, dbStep_of_candidate_released (State.setDb_dbSt_same _ _ _),
    State.setDb_setDb, ← hidle i, State.setDb_dbSt_self]

end Quiet

/-- Two samples of one input, the other one deasserted (R223). -/
theorem execAll_press_then_sample {s : State} (hs : s.Inv) (hrun : s.halted = false) (hidle : ∀ j, s.dbSt j = .idle)
    (hroom : s.rbCnt.toNat < s.cfg.C) (i : DbInput) :
    (∃ t, execAll [scanOnly i true, scanOnly i true] s = .next t ∧
      t.ringEntries = s.ringEntries ++ [eventCode s.cfg i] ∧ t.dbSt i = .idle) ∧
    (∃ t, execAll [scanOnly i true, scanOnly i false] s = .next t ∧
      t.ringEntries = s.ringEntries ∧ t.dbSt i = .idle) :=
  ⟨⟨_, execAll_press_press hrun hidle i hroom, hs.putEntry_ringEntries hroom _, (s.putEntry_dbSt _ i).trans (hidle i)⟩,
    s, execAll_press_release hrun hidle i, rfl, hidle i⟩

theorem dbSt_idle_of_both {s : State} (h0 : s.dbSt0 = .idle) (h1 : s.dbSt1 = .idle) (j : DbInput) :
    s.dbSt j = .idle := by
  cases j
  · exact h0
  · exact h1

/-- Settles O38: each input in turn (`execAll_press_then_sample`). -/
theorem pressNeedsTwoConsecutiveSamples : Obligations.PressNeedsTwoConsecutiveSamples := by
  intro s hs hrun h0 h1 hroom
  have hsamples := execAll_press_then_sample hs hrun (dbSt_idle_of_both h0 h1) hroom
  obtain ⟨hpress0, hrelease0⟩ := hsamples .in0
  obtain ⟨hpress1, hrelease1⟩ := hsamples .in1
  exact ⟨hpress0, hrelease0, hpress1, hrelease1⟩

/-- Every second asserted sample queues one event and the input is as before, so a run of `k + 2` of them is a pair
followed by a run of `k`. -/
theorem execAll_held (i : DbInput) (k : Nat) {s : State} (hs : s.Inv) (hrun : s.halted = false)
    (hidle : ∀ j, s.dbSt j = .idle) (hroom : s.rbCnt.toNat + k / 2 ≤ s.cfg.C) :
    ∃ t, execAll (List.replicate k (scanOnly i true)) s = .next t ∧
      t.ringEntries = s.ringEntries ++ List.replicate (k / 2) (eventCode s.cfg i) ∧
      t.dbSt i = (if k % 2 = 0 then .idle else .candidate) ∧ t.trace = s.trace := by
  induction k using Nat.twoStepInduction generalizing s with
  | zero => exact ⟨s, rfl, (List.append_nil _).symm, hidle i, rfl⟩
  | one =>
    exact ⟨_, execAll_cons_of_next (exec_press hrun hidle i), by simp, State.setDb_dbSt_same _ _ _,
      State.setDb_trace _ _ _⟩
  | more k ih _ =>
    have hhalf : (k + 2) / 2 = k / 2 + 1 := Nat.add_div_right k two_pos
    have hone : s.rbCnt.toNat < s.cfg.C := by omega
    have hcnt := hs.putEntry_rbCnt hone (eventCode s.cfg i)
    obtain ⟨t, hrest, hentries, hst, htrace⟩ :=
      ih (hs.putEntry hone (eventCode s.cfg i)) hrun (fun j => (s.putEntry_dbSt _ j).trans (hidle j))
        (by rw [hcnt, State.putEntry_cfg]; omega)
    refine ⟨t, (execAll_append (execAll_press_press hrun hidle i hone)).trans hrest, ?_, ?_, htrace⟩
    · rw [hentries, hs.putEntry_ringEntries hone, hhalf, List.replicate_succ, List.append_assoc, List.singleton_append,
        State.putEntry_cfg]
    · rw [hst, Nat.add_mod_right]

/-- Settles O39, by induction on pairs of SCANs (`execAll_held`). -/
theorem heldInputQueuesEverySecondScan : Obligations.HeldInputQueuesEverySecondScan := by
  intro s i k hs hrun h0 h1 hroom
  have hscan : Instr.scan (i == .in0) (i == .in1) = scanOnly i true := by cases i <;> rfl
  rw [hscan]
  exact execAll_held i k hs hrun (dbSt_idle_of_both h0 h1) hroom

/-! ### The writers of the debounce state and of the ring -/

/-- The debounce states and the put side of the ring are the same (R227, 43_ring_buffer.md R247). -/
def KeepsPutSide (s t : State) : Prop :=
  t.dbSt0 = s.dbSt0 ∧ t.dbSt1 = s.dbSt1 ∧ t.rbWr = s.rbWr ∧ t.rbStore = s.rbStore

theorem KeepsPutSide.refl (s : State) : KeepsPutSide s s := ⟨rfl, rfl, rfl, rfl⟩

theorem CommandStep.keepsPutSide {p : Nat} {s t : State} {i : Instr} (hstep : CommandStep p s i t) :
    KeepsPutSide s t := by
  cases hstep <;> exact .refl s

theorem CommandStep.rbRd_eq {p : Nat} {s t : State} {i : Instr} (hstep : CommandStep p s i t) (hget : i ≠ .rbGet p) :
    t.rbRd = s.rbRd := by
  cases hstep
  case took => exact absurd rfl hget
  all_goals rfl

/-- The debounce states, both ring indices and every slot are the same; the count is left open. -/
def KeepsRing (s t : State) : Prop := KeepsPutSide s t ∧ t.rbRd = s.rbRd

theorem KeepsRing.refl (s : State) : KeepsRing s s := ⟨.refl s, rfl⟩

theorem rxStart_keepsRing (s : State) : KeepsRing s (rxStart s) := by
  unfold rxStart
  split <;> exact .refl s

theorem rxEnd_keepsRing (h : Handle) (s : State) : KeepsRing s (rxEnd h s) := by
  obtain ⟨q, -, he⟩ | ⟨-, -, he⟩ | ⟨-, -, he⟩ := rxEnd_cases h s <;> rw [he] <;> exact .refl s

theorem rxPayload_keepsRing {h : Handle} {b : Byte} {s t : State} (hp : rxPayload h b s = .next t) : KeepsRing s t := by
  unfold rxPayload at hp
  split at hp <;> cases hp
  next u hu =>
    obtain ⟨-, rfl, -⟩ := State.memWrite_spec hu
    exact .refl s

/-- In any state, of the invariants or not, a received byte touches neither the debounce states nor the ring. -/
theorem execRxByte_keepsRing {b : Byte} {s t : State} (h : execRxByte b s = .next t) : KeepsRing s t := by
  unfold execRxByte at h
  split at h
  · cases h; exact .refl s
  split at h
  · split at h
    · cases h; exact rxStart_keepsRing s
    · split at h <;> cases h <;> exact .refl s
  · split at h
    · cases h
    next k _ =>
      split at h
      · cases h; exact rxEnd_keepsRing k s
      · split at h
        · cases h; exact .refl s
        · exact rxPayload_keepsRing h

theorem exec_keepsPutSide {i : Instr} {s t : State} (h : exec i s = .next t) (hscan : ∀ s0 s1, i ≠ .scan s0 s1)
    (hreset : i ≠ .reset) : KeepsPutSide s t := by
  cases hp : i.port? with
  | some p => exact (exec_commandStep hp h).keepsPutSide
  | none =>
    cases i with
    | rxByte b => exact (execRxByte_keepsRing h).1
    | scan s0 s1 => exact absurd rfl (hscan s0 s1)
    | tick => obtain ⟨-, rfl⟩ | ⟨-, rfl⟩ := exec_tick_cases h <;> exact .refl _
    | reset => exact absurd rfl hreset
    | _ => cases hp

theorem exec_rbRd_eq {i : Instr} {s t : State} (h : exec i s = .next t) (hget : ∀ p, i ≠ .rbGet p)
    (hreset : i ≠ .reset) : t.rbRd = s.rbRd := by
  cases hp : i.port? with
  | some p => exact (exec_commandStep hp h).rbRd_eq (hget p)
  | none =>
    cases i with
    | rxByte b => exact (execRxByte_keepsRing h).2
    | scan s0 s1 =>
      obtain ⟨-, rfl⟩ | ⟨-, rfl⟩ := exec_scan_cases h
      · rfl
      · exact (dbStep_outcome .in1 s1 _).rbRd_eq.trans (dbStep_outcome .in0 s0 s).rbRd_eq
    | tick => obtain ⟨-, rfl⟩ | ⟨-, rfl⟩ := exec_tick_cases h <;> rfl
    | reset => exact absurd rfl hreset
    | _ => cases hp

/-- Settles O41: of the three things a step can be, only an instruction writes these, and RESET apart only its own one
does (`exec_keepsPutSide`, `exec_rbRd_eq`). -/
theorem debounceAndRingHaveOneWriterEach : Obligations.DebounceAndRingHaveOneWriterEach := by
  intro s t st rest htake hstep hreset
  obtain ⟨-, ⟨hnone, -⟩ | ⟨_, _, i, htake', hdecode, hexec⟩ | ⟨p, _, _, _, htake', -, -, rfl⟩⟩ := step_cases hstep
  · cases hnone.symm.trans htake
  · cases htake'.symm.trans htake
    have hreset' : i ≠ .reset := fun hi => hreset (eq_encode_of_decode_event (hi ▸ hdecode) rfl)
    refine ⟨fun hscan => ?_, fun hget => ?_⟩
    · refine exec_keepsPutSide (s := { s with inbox := rest }) hexec (fun s0 s1 hi => ?_) hreset'
      exact hscan _ (eq_encode_of_decode_event (hi ▸ hdecode) rfl)
    · exact exec_rbRd_eq (s := { s with inbox := rest }) hexec (fun p hi => hget p (hi ▸ hdecode)) hreset'
  · exact ⟨fun _ => KeepsPutSide.refl s, fun _ => rfl⟩

end Sys2Proof.Machine

/-! PROOF. The Ring Buffer (43_ring_buffer.md R240 to R245): what RB_GET does in each of its cases, and that a get takes
the first queued entry while a SCAN puts behind the last. -/

namespace Sys2Proof.Machine

/-! ### An entry taken off the ring -/

/-- The state with the ring's first entry taken (43_ring_buffer.md R242). -/
def State.takeEntry (s : State) : State := { s with rbRd := ringNext s.cfg s.rbRd, rbCnt := s.rbCnt - 1#16 }

/-- `State.Inv.ringNext_toNat` rests on the build alone, and a legal build's reset state has the invariants. -/
theorem ringNext_toNat_of_legal {g : Config} (hlegal : g.legal = true) (i : BitVec 16) :
    (ringNext g i).toNat = (i.toNat + 1) % g.C := (State.resetWith_inv hlegal).ringNext_toNat i

/-- One entry fewer is queued: the count does not wrap. -/
theorem State.takeEntry_rbCnt {s : State} (hne : s.rbCnt ≠ 0#16) : s.takeEntry.rbCnt.toNat + 1 = s.rbCnt.toNat := by
  change (s.rbCnt - 1#16).toNat + 1 = s.rbCnt.toNat
  bv_omega

@[simp] theorem State.ringEntries_length (s : State) : s.ringEntries.length = s.rbCnt.toNat := by
  simp [State.ringEntries]

theorem State.ringEntries_eq_nil_iff {s : State} : s.ringEntries = [] ↔ s.rbCnt = 0#16 := by
  rw [← List.length_eq_zero_iff, State.ringEntries_length, ← BitVec.toNat_inj, BitVec.toNat_zero]

@[simp] theorem State.respond_ringEntries (s : State) (p : Nat) (rc : Rc) (h : Handle) (c : ChanId) (v : BitVec 16) :
    (s.respond p rc h c v).ringEntries = s.ringEntries := rfl

@[simp] theorem State.answer_ringEntries (s : State) (p : Nat) (rc : Rc) :
    (s.answer p rc).ringEntries = s.ringEntries := rfl

/-- The entry at `rb.rd` is the first one, and the `k`-th of the rest is the one that was the `k + 1`-th. -/
theorem State.Inv.ringEntries_eq_cons {s : State} (hs : s.Inv) (hne : s.rbCnt ≠ 0#16) :
    s.ringEntries = s.ringByte s.rbRd.toNat :: s.takeEntry.ringEntries := by
  have hslot (k : Nat) : (s.takeEntry.rbRd.toNat + k) % s.cfg.C = (s.rbRd.toNat + (k + 1)) % s.cfg.C := by
    change ((ringNext s.cfg s.rbRd).toNat + k) % s.cfg.C = _
    rw [hs.ringNext_toNat, Nat.mod_add_mod, Nat.add_right_comm, Nat.add_assoc]
  have hrest : s.takeEntry.ringEntries =
      (List.range s.takeEntry.rbCnt.toNat).map fun k => s.ringByte ((s.rbRd.toNat + (k + 1)) % s.cfg.C) :=
    List.map_congr_left fun k _ => congrArg s.ringByte (hslot k)
  rw [hrest, State.ringEntries, ← State.takeEntry_rbCnt hne, List.range_succ_eq_map, List.map_cons, List.map_map,
    Nat.add_zero, Nat.mod_eq_of_lt hs.ringRd]
  rfl

/-! ### RB_GET -/

section RbGet

variable {s : State} {p : Nat} (hready : Ready (.rbGet p) p s)
include hready

theorem exec_rbGet_of_empty (hconsumer : p = s.cfg.RB_CONSUMER) (hempty : s.rbCnt = 0#16) :
    exec (.rbGet p) s = .next (s.answer p .empty) := by
  simp [exec, execRbGet, prologue_ready _ hready, ← hconsumer, State.ringEmpty, hempty]

theorem exec_rbGet_of_nonempty (hconsumer : p = s.cfg.RB_CONSUMER) (hne : s.rbCnt ≠ 0#16) :
    exec (.rbGet p) s =
      .next (s.takeEntry.respond p .ok 0#8 0#4 ((s.ringByte s.rbRd.toNat).setWidth 16)) := by
  simp [exec, execRbGet, prologue_ready _ hready, ← hconsumer, State.ringEmpty, hne, State.takeEntry]

theorem exec_rbGet_of_other (hother : p ≠ s.cfg.RB_CONSUMER) :
    exec (.rbGet p) s = .next (takeFatal .secondConsumer p 0#8 s) := by
  simp [exec, execRbGet, prologue_ready _ hready, hother]

end RbGet

/-- Settles O34: the port is looked at before the ring (60_exceptions.md R290), and taking an entry
(`State.takeEntry`) writes the index and the count only. -/
theorem rbGetTakesTheOldestEntryOrHalts : Obligations.RbGetTakesTheOldestEntryOrHalts := by
  intro s p hlegal hready
  refine ⟨fun hconsumer hempty => ?_, fun hconsumer hne => ?_, fun hother => ?_⟩
  · exact ⟨_, exec_rbGet_of_empty hready hconsumer hempty, State.answer_eq_withTrace .empty hready.idle,
      s.answer_answered p .empty, keepsStorage_of_eq rfl rfl rfl⟩
  · exact ⟨_, _, exec_rbGet_of_nonempty hready hconsumer hne,
      State.respond_eq_withTrace (s := s.takeEntry) .ok 0#8 0#4 _ hready.idle, ringNext_toNat_of_legal hlegal s.rbRd,
      State.takeEntry_rbCnt hne, BitVec.toNat_setWidth_of_le (by decide),
      State.respond_answered s.takeEntry p .ok 0#8 0#4 _, keepsStorage_of_eq rfl rfl rfl⟩
  · exact ⟨_, exec_rbGet_of_other hready hother, takeFatal_entered .secondConsumer 0#8 hready.idle⟩

/-! ### SCAN and the ring -/

/-- The entry one sample of input `i` would put into the ring, if it presses. -/
def pressCode (i : DbInput) (smp : Bool) (s : State) : List Byte :=
  if pressed (s.dbSt i) smp then [eventCode s.cfg i] else []

theorem dbStep_of_pressed {i : DbInput} {smp : Bool} {s : State} (hpress : pressed (s.dbSt i) smp = true) :
    dbStep i smp s = push i s := by
  cases hst : s.dbSt i with
  | idle => simp [hst, pressed] at hpress
  | candidate =>
    obtain rfl : smp = true := by simpa [hst, pressed] using hpress
    exact dbStep_of_candidate_pressed hst
  | confirmed => exact dbStep_of_confirmed hst

theorem dbStep_of_not_pressed {i : DbInput} {smp : Bool} {s : State} (hpress : pressed (s.dbSt i) smp = false) :
    ∃ d, dbStep i smp s = s.setDb i d := by
  cases hst : s.dbSt i with
  | idle => exact ⟨_, dbStep_of_idle hst⟩
  | candidate =>
    obtain rfl : smp = false := by simpa [hst, pressed] using hpress
    exact ⟨_, dbStep_of_candidate_released hst⟩
  | confirmed => simp [hst, pressed] at hpress

/-- One sample puts its code behind the last entry, as far as `C` entries allow. -/
theorem dbStep_ringEntries_eq_take {s : State} (hs : s.Inv) (i : DbInput) (smp : Bool) :
    (dbStep i smp s).ringEntries = (s.ringEntries ++ pressCode i smp s).take s.cfg.C := by
  cases hpress : pressed (s.dbSt i) smp with
  | false =>
    obtain ⟨d, hstep⟩ := dbStep_of_not_pressed hpress
    simp [hstep, pressCode, hpress, hs.ringCap]
  | true =>
    rw [dbStep_of_pressed hpress, pressCode, hpress, if_pos rfl]
    obtain hroom | hfull := hs.ringCap.lt_or_eq
    · rw [push_of_room hroom.ne, State.setDb_ringEntries, hs.putEntry_ringEntries hroom, List.take_of_length_le]
      simpa using hroom
    · rw [push_of_full hfull, State.diag_ringEntries, State.setDb_ringEntries, List.take_left' (by simpa using hfull)]

/-- A bound on the length asked after each of two appends is the bound asked once at the end. -/
theorem take_take_append_append {α : Type} (n : Nat) (xs ys zs : List α) :
    (((xs ++ ys).take n) ++ zs).take n = (xs ++ ys ++ zs).take n := by
  have hleft : n - min n (xs ++ ys).length = n - (xs ++ ys).length := by omega
  rw [List.take_append, List.take_take, Nat.min_self, List.length_take, hleft, ← List.take_append]

theorem DbOutcome.rbWr_of_full {i : DbInput} {s t : State} (h : DbOutcome i s t) (hfull : s.rbCnt.toNat = s.cfg.C) :
    t.rbWr = s.rbWr := by
  cases h with
  | moved d => simp
  | queued room => exact absurd hfull room
  | refused full => simp

/-- Settles O35: a get takes the first entry (`State.Inv.ringEntries_eq_cons`), each of the two samples of a SCAN puts
its code behind the last (`dbStep_ringEntries_eq_take`), and a full ring is left as it is (`DbOutcome.of_full`). -/
theorem ringIsFirstInFirstOut : Obligations.RingIsFirstInFirstOut := by
  intro s hs hrun
  refine ⟨fun e rest hentries hidle => ?_, fun hentries hidle => ?_, fun s0 s1 => ?_⟩
  · have hne : s.rbCnt ≠ 0#16 := fun hempty => by
      simp [State.ringEntries_eq_nil_iff.mpr hempty] at hentries
    obtain ⟨rfl, rfl⟩ := List.cons.inj ((hs.ringEntries_eq_cons hne).symm.trans hentries)
    exact ⟨_, _, exec_rbGet_of_nonempty ⟨hidle, rfl, hrun⟩ rfl hne, State.respond_ringEntries _ _ _ _ _ _,
      BitVec.toNat_setWidth_of_le (by decide), State.respond_answered s.takeEntry _ .ok 0#8 0#4 _⟩
  · exact ⟨_, exec_rbGet_of_empty ⟨hidle, rfl, hrun⟩ rfl (State.ringEntries_eq_nil_iff.mp hentries),
      (State.answer_ringEntries _ _ _).trans hentries, s.answer_answered _ .empty⟩
  · have hfirst := dbStep_outcome .in0 s0 s
    have hsecond := dbStep_outcome .in1 s1 (dbStep .in0 s0 s)
    have hkeep : (dbStep .in0 s0 s).dbSt .in1 = s.dbSt .in1 := hfirst.dbSt_other nofun
    have hcode : pressCode .in1 s1 (dbStep .in0 s0 s) = pressCode .in1 s1 s := by
      rw [pressCode, pressCode, hkeep, hfirst.cfg_eq]
    refine ⟨_, exec_scan_of_running hrun s0 s1, ?_, hsecond.rbRd_eq.trans hfirst.rbRd_eq, fun hlen => ?_⟩
    · rw [dbStep_ringEntries_eq_take (hs.dbStep .in0 s0), dbStep_ringEntries_eq_take hs, hfirst.cfg_eq, hcode,
        take_take_append_append]
      rfl
    · have hfull : s.rbCnt.toNat = s.cfg.C := s.ringEntries_length.symm.trans hlen
      obtain ⟨hcnt, hentries⟩ := hfirst.of_full hfull
      have hfull' : (dbStep .in0 s0 s).rbCnt.toNat = (dbStep .in0 s0 s).cfg.C := by rw [hcnt, hfirst.cfg_eq, hfull]
      obtain ⟨hcnt', hentries'⟩ := hsecond.of_full hfull'
      exact ⟨hentries'.trans hentries, (hsecond.rbWr_of_full hfull').trans (hfirst.rbWr_of_full hfull),
        hcnt'.trans hcnt⟩

end Sys2Proof.Machine

/-! PROOF. The status registers (10_state.md R42) and RDSTAT (44_status.md R260, R261): what each register reads, which
numbers are registers, and the answer in either case. -/

namespace Sys2Proof.Machine

/-! ### The numbers behind the fields -/

/-- `fatal_code` as STATUS shows it (60_exceptions.md R284). -/
theorem FatalCode.bits_toNat (f : FatalCode) : f.bits.toNat = fatalNumber f := by cases f <;> rfl

/-- A debounce state as DB_STATE shows it (10_state.md R39). -/
theorem DbState.bits_toNat (d : DbState) : d.bits.toNat = dbNumber d := by cases d <;> rfl

theorem State.ringEmpty_eq_decide (s : State) : s.ringEmpty = decide (s.rbCnt.toNat = 0) := by
  rw [State.ringEmpty, Bool.beq_eq_decide_eq]
  exact decide_eq_decide.mpr BitVec.toNat_inj.symm

/-- `PORT_WAIT` is a binary number with the lowest port as its last digit. -/
theorem portWaitNumber_cons (ps : PortState) (rest : List PortState) :
    portWaitNumber (ps :: rest) = Nat.bit ps.waiting (portWaitNumber rest) := by
  rw [portWaitNumber, Nat.bit_val, Nat.add_comm]
  cases ps.waiting <;> rfl

theorem portWaitNumber_testBit (ports : List PortState) (q : Nat) :
    (portWaitNumber ports).testBit q = (ports[q]?).any PortState.waiting := by
  induction ports generalizing q with
  | nil => simp [portWaitNumber]
  | cons ps rest ih =>
    rw [portWaitNumber_cons]
    cases q with
    | zero => exact Nat.testBit_bit_zero _ _
    | succ q => exact (Nat.testBit_bit_succ q _ _).trans (ih q)

/-! ### What each register reads -/

/-- The three parts of a bit vector, from the lowest. -/
theorem extractLsb'_append_append {u v w : Nat} (x : BitVec u) (y : BitVec v) (z : BitVec w) :
    (x ++ y ++ z).extractLsb' 0 w = z ∧ (x ++ y ++ z).extractLsb' w v = y ∧
      (x ++ y ++ z).extractLsb' (v + w) u = x := by
  refine ⟨BitVec.extractLsb'_append_eq_right, ?_, ?_⟩
  · rw [BitVec.extractLsb'_append_eq_of_le (Nat.le_refl w), Nat.sub_self, BitVec.extractLsb'_append_eq_right]
  · rw [BitVec.extractLsb'_append_eq_of_le (Nat.le_add_left w v), Nat.add_sub_cancel, BitVec.extractLsb'_append_eq_left]

theorem regStatus_flags (s : State) :
    (regStatus s).getLsbD 0 = s.halted ∧ (regStatus s).getLsbD 1 = s.decRcv ∧
      (regStatus s).getLsbD 2 = s.ringEmpty ∧ (regStatus s).getLsbD 3 = s.ringFull := by
  simp only [regStatus, BitVec.getLsbD_append]
  simp

/-- Above the four flags STATUS shows the fatal code and zeros. -/
theorem regStatus_fatalCode (s : State) :
    (regStatus s).extractLsb' 4 4 = s.fatalCode.bits ∧ (regStatus s).extractLsb' 8 8 = 0#8 := by
  have hflags : regStatus s = (0#8 ++ s.fatalCode.bits) ++
      (BitVec.ofBool s.ringFull ++ BitVec.ofBool s.ringEmpty ++ BitVec.ofBool s.decRcv ++ BitVec.ofBool s.halted) := by
    simp only [regStatus, BitVec.append_assoc, BitVec.cast_eq]
  rw [hflags]
  exact (extractLsb'_append_append 0#8 s.fatalCode.bits _).2

theorem regFatalLoc_fields (s : State) :
    (regFatalLoc s).extractLsb' 0 4 = s.fatalPort ∧ (regFatalLoc s).extractLsb' 4 4 = 0#4 ∧
      (regFatalLoc s).extractLsb' 8 8 = s.fatalHandle :=
  extractLsb'_append_append s.fatalHandle 0#4 s.fatalPort

theorem regDecHandle_fields (s : State) :
    (regDecHandle s).extractLsb' 0 8 = (if s.decRcv then s.decH.getD 0#8 else 0#8) ∧
      (regDecHandle s).getLsbD 8 = s.decRcv ∧ (regDecHandle s).extractLsb' 9 7 = 0#7 := by
  obtain ⟨hhandle, hvalid, hzeros⟩ := extractLsb'_append_append 0#7 (BitVec.ofBool s.decRcv)
    (if s.decRcv then s.decH.getD 0#8 else 0#8)
  refine ⟨hhandle, ?_, hzeros⟩
  simpa [regDecHandle] using congrArg (BitVec.getLsbD · 0) hvalid

theorem regDbState_fields (s : State) :
    (regDbState s).extractLsb' 0 2 = s.dbSt0.bits ∧ (regDbState s).extractLsb' 2 2 = s.dbSt1.bits ∧
      (regDbState s).extractLsb' 4 12 = 0#12 :=
  extractLsb'_append_append 0#12 s.dbSt1.bits s.dbSt0.bits

theorem regPortWait_getLsbD (s : State) {q : Nat} (hq : q < 16) :
    (regPortWait s).getLsbD q = (s.port[q]?).any PortState.waiting := by
  rw [regPortWait, BitVec.getLsbD_ofNat, portWaitNumber_testBit, decide_eq_true hq, Bool.true_and]

/-- At most 256 buffers are counted. -/
theorem State.Inv.regPoolFree_toNat {s : State} (hs : s.Inv) :
    (regPoolFree s).toNat = s.owner.countP (fun o => o == .free) := by
  obtain ⟨-, ⟨-, hN⟩, -⟩ := (Config.legal_iff s.cfg).mp hs.legal
  have hcount : s.owner.countP (fun o => o == .free) ≤ s.owner.length := List.countP_le_length
  have hsize := hs.ownerSize
  exact Nat.mod_eq_of_lt (by omega)

/-- A channel's depth, and so its length, fits a register. -/
theorem State.Inv.chan_length_lt {s : State} (hs : s.Inv) (c : ChanId) : (s.chan c).length < 2 ^ 16 := by
  obtain ⟨-, -, -, -, -, hdepth, -⟩ := (Config.legal_iff s.cfg).mp hs.legal
  have hcap := hs.chanCap c
  by_cases hc : c.toNat < s.cfg.DEPTH.length
  · rw [Config.depth, List.getD_eq_getElem _ _ hc] at hcap
    have := hdepth _ (List.getElem_mem hc)
    omega
  · rw [Config.depth, List.getD_eq_default _ _ (Nat.not_lt.mp hc)] at hcap
    omega

/-! ### The map -/

/-- From 0x08 on the map holds the channel lengths only. -/
theorem statusReg_of_ge {s : State} {reg : Byte} (hreg : 0x08 ≤ reg.toNat) :
    statusReg s reg =
      if 0x10 ≤ reg.toNat ∧ reg.toNat < 0x10 + s.cfg.NCH then
        some (BitVec.ofNat 16 (s.chan (BitVec.ofNat 4 (reg.toNat - 0x10))).length)
      else none := by
  unfold statusReg
  split
  case h_9 => rfl
  all_goals omega

theorem statusReg_chan {s : State} {reg : Byte} {c : ChanId} (hc : c.toNat < s.cfg.NCH)
    (hreg : reg.toNat = 0x10 + c.toNat) : statusReg s reg = some (BitVec.ofNat 16 (s.chan c).length) := by
  rw [statusReg_of_ge (by omega), if_pos (by omega), hreg, Nat.add_sub_cancel_left, BitVec.ofNat_toNat,
    BitVec.setWidth_eq]

/-- The registers are the REG fields R106 accepts, so RDSTAT's own rule never meets a number outside the map. -/
theorem statusReg_isSome (s : State) (reg : Byte) : (statusReg s reg).isSome = s.cfg.regOk reg := by
  obtain hlow | hhigh := Nat.lt_or_ge reg.toNat 0x08
  · have hok : s.cfg.regOk reg = true := decide_eq_true (.inl hlow)
    rw [hok]
    interval_cases hn : reg.toNat <;> simp [statusReg, hn]
  · rw [statusReg_of_ge hhigh]
    split
    · next hchan => exact (decide_eq_true (.inr hchan)).symm
    · next hout => exact (decide_eq_false (by omega)).symm

/-- Every register of the map reads as the table of R42 says. -/
theorem State.Inv.statusReg_reads {s : State} (hs : s.Inv) {reg : Byte} {v : BitVec 16} (hv : statusReg s reg = some v) :
    RegisterReads s reg v := by
  refine ⟨?status, ?fatalLoc, ?decCount, ?decHandle, ?poolFree, ?rbCount, ?dbState, ?portWait, ?chanLen⟩
  case chanLen =>
    intro c hc hreg
    obtain rfl := Option.some.inj ((statusReg_chan hc hreg).symm.trans hv)
    exact Nat.mod_eq_of_lt (hs.chan_length_lt c)
  all_goals rintro rfl; obtain rfl := Option.some.inj hv
  case status =>
    obtain ⟨hhalted, hrcv, hempty, hfull⟩ := regStatus_flags s
    obtain ⟨hcode, hzeros⟩ := regStatus_fatalCode s
    exact ⟨hhalted, hrcv, hempty.trans s.ringEmpty_eq_decide, hfull,
      (congrArg BitVec.toNat hcode).trans s.fatalCode.bits_toNat, hzeros⟩
  case fatalLoc => exact regFatalLoc_fields s
  case decCount => exact BitVec.toNat_setWidth_of_le (by decide)
  case decHandle =>
    obtain ⟨hhandle, hvalid, hzeros⟩ := regDecHandle_fields s
    exact ⟨fun hon h hh => by rw [hhandle, hon, hh]; rfl, fun hoff => by rw [hhandle, hoff]; rfl, hvalid, hzeros⟩
  case poolFree => exact hs.regPoolFree_toNat
  case rbCount => rfl
  case dbState =>
    obtain ⟨h0, h1, hzeros⟩ := regDbState_fields s
    exact ⟨(congrArg BitVec.toNat h0).trans s.dbSt0.bits_toNat, (congrArg BitVec.toNat h1).trans s.dbSt1.bits_toNat,
      hzeros⟩
  case portWait => exact fun q hq => regPortWait_getLsbD s hq

/-! ### RDSTAT -/

/-- The prologue lets RDSTAT of a register through, halted or not (60_exceptions.md R287). -/
theorem exec_rdstat_of_statusReg {s : State} {p : Nat} {reg : Byte} {v : BitVec 16} (hidle : s.port[p]? = some .idle)
    (hv : statusReg s reg = some v) : exec (.rdstat p reg) s = .next (s.respond p .ok 0#8 0#4 v) := by
  have hfields : (Instr.rdstat p reg).fieldsLegal s.cfg = true := (statusReg_isSome s reg).symm.trans (by rw [hv]; rfl)
  simp [exec, execRdstat, prologue, hidle, hfields, servedWhileHalted, hv]

/-- Settles O42: a number of the map names a register (`statusReg_isSome`), and the answer carries its value. -/
theorem rdstatReadsTheRegisterMap : Obligations.RdstatReadsTheRegisterMap := by
  intro s p reg hs hidle hreg
  have hok : s.cfg.regOk reg = true := decide_eq_true (hreg.imp_left Nat.lt_succ_of_le)
  obtain ⟨v, hv⟩ := Option.isSome_iff_exists.mp ((statusReg_isSome s reg).trans hok)
  exact ⟨_, v, exec_rdstat_of_statusReg hidle hv, State.respond_eq_withTrace .ok 0#8 0#4 v hidle,
    s.respond_answered p .ok 0#8 0#4 v, hs.statusReg_reads hv, keepsStorage_of_eq rfl rfl rfl⟩

/-- Settles O43: these numbers are outside the range of REG, and any field out of range is answered so (R109). -/
theorem registersOutsideTheMapAreIllegal : Obligations.RegistersOutsideTheMapAreIllegal := by
  intro s p reg hlegal hidle hreg
  obtain ⟨-, -, -, ⟨-, hNCH⟩, -⟩ := (Config.legal_iff s.cfg).mp hlegal
  have hfields : (Instr.rdstat p reg).fieldsLegal s.cfg = false := decide_eq_false (by omega)
  exact outOfRangeFieldsAreIllegal.1 _ p s rfl hidle hfields

end Sys2Proof.Machine

/-! PROOF. Progress (60_exceptions.md R298): every stimulus the block has a step for completes, so no fault and no
refusal is reached from a state that meets the invariants. -/

namespace Sys2Proof.Machine

/-! ### Stimuli that can be taken -/

/-- A command word is taken from an IDLE port only (70_reset_and_hazards.md R330). -/
theorem port_idle_of_takeNext {s : State} {p : Nat} {w : Word} {rest : List Stimulus}
    (htake : s.takeNext = some (.command p w, rest)) : s.port[p]? = some .idle := by
  obtain ⟨-, -, -, -, htakable, -⟩ := takeFirst_eq_some_iff.mp htake
  exact beq_iff_eq.mp htakable

theorem illegalWord_of_idle {s : State} {p : Nat} (hidle : s.port[p]? = some .idle) :
    illegalWord p s = .next (s.answer p .illegal) := by
  simp only [illegalWord, hidle]

/-! ### Commands -/

/-- Behind the prologue of an IDLE port a command completes when its own rule does with legal fields. -/
theorem prologue_completes {i : Instr} {p : Nat} {s : State} {body : Host.Outcome State Fault Refusal}
    (hidle : s.port[p]? = some .idle) (hbody : i.fieldsLegal s.cfg = true → ∃ t, body = .next t) :
    ∃ t, prologue i p s body = .next t := by
  obtain ⟨hnone, -⟩ | ⟨_, _, hwait, -⟩ | ⟨-, -, e⟩ | ⟨-, -, -, -, e⟩ | ⟨-, hfields, -, e⟩ := prologue_cases i p s body
  · cases hnone.symm.trans hidle
  · cases hwait.symm.trans hidle
  · exact ⟨_, e⟩
  · exact ⟨_, e⟩
  · rw [e]; exact hbody hfields

/-- Every command on an IDLE port completes, in any state: legal fields address a byte of the pool (20_memory.md
R80), and every other rule answers in each of its cases. -/
theorem exec_command_completes {i : Instr} {p : Nat} {s : State} (hp : i.port? = some p)
    (hidle : s.port[p]? = some .idle) : ∃ t, exec i s = .next t := by
  cases i <;> cases hp <;> refine prologue_completes hidle fun hfields => ?_
  case acquire => split <;> exact ⟨_, rfl⟩
  case release =>
    split
    · exact ⟨_, rfl⟩
    · split <;> exact ⟨_, rfl⟩
  case post =>
    split
    · exact ⟨_, rfl⟩
    · split <;> exact ⟨_, rfl⟩
  case recv => split <;> exact ⟨_, rfl⟩
  case bufRd h off =>
    rw [State.memRead_some (poolAddr_lt_of_fields hfields)]
    split <;> exact ⟨_, rfl⟩
  case bufWr h off data =>
    rw [State.memWrite_some data (poolAddr_lt_of_fields hfields)]
    split <;> exact ⟨_, rfl⟩
  case rbGet =>
    split
    · exact ⟨_, rfl⟩
    · split <;> exact ⟨_, rfl⟩
  case rdstat => split <;> exact ⟨_, rfl⟩

/-! ### Input events -/

theorem exec_scan_completes (s0 s1 : Bool) (s : State) : ∃ t, exec (.scan s0 s1) s = .next t := by
  simp only [exec, execScan]
  split <;> exact ⟨_, rfl⟩

theorem exec_tick_completes (s : State) : ∃ t, exec .tick s = .next t := by
  simp only [exec, execTick]
  split <;> exact ⟨_, rfl⟩

/-! ### The step -/

/-- What a stimulus the block takes decodes to completes: only a received byte needs the invariants, for the buffer of
a receiving decoder (`exec_rxByte_effect`). -/
theorem runDecoded_completes {s : State} (hs : s.Inv) {st : Stimulus}
    (hidle : ∀ p w, st = .command p w → s.port[p]? = some .idle) : ∃ t, runDecoded (decode st) s = .next t := by
  cases st with
  | command p w =>
    have hport := hidle p w rfl
    cases hdecode : decode (.command p w) with
    | instr i => exact exec_command_completes (decodeCommand_instr_port hdecode) hport
    | reject q r =>
      obtain rfl : q = p := decodeCommand_reject_port hdecode
      exact ⟨_, illegalWord_of_idle hport⟩
  | rx b =>
    obtain ⟨t, hexec, -⟩ := exec_rxByte_effect hs b
    exact ⟨t, hexec⟩
  | scanStrobe ts => exact exec_scan_completes _ _ s
  | timeoutTick => exact exec_tick_completes s
  | resetLine => exact ⟨_, rfl⟩

/-- Settles O18: a legal build idles when there is nothing to take, and what it takes completes
(`runDecoded_completes`). -/
theorem everyStepCompletes : Obligations.EveryStepCompletes := by
  intro s hs
  cases htake : s.takeNext with
  | none => exact ⟨s, step_of_takeNext_none hs.legal htake⟩
  | some taken =>
    obtain ⟨st, rest⟩ := taken
    have hs' : State.Inv { s with inbox := rest } := { hs with }
    rw [step_of_takeNext_some hs.legal htake]
    refine runDecoded_completes hs' ?_
    rintro p w rfl
    exact (port_idle_of_takeNext htake : s.port[p]? = some .idle)

end Sys2Proof.Machine

/-! PROOF. Answers without effect (60_exceptions.md R281, R287, R288, R290): illegal words, and what a halted block
does with each stimulus. -/

namespace Sys2Proof.Machine

/-! ### Illegal words -/

theorem exec_of_fields_illegal {i : Instr} {p : Nat} {s : State} (hp : i.port? = some p)
    (hidle : s.port[p]? = some .idle) (hfields : i.fieldsLegal s.cfg = false) :
    exec i s = .next (s.answer p .illegal) := by
  obtain ⟨body, hexec⟩ := exec_eq_prologue s hp
  rw [hexec, prologue_of_fields_illegal body hidle hfields]

/-- A word that no row accepts and a word with a field out of range are answered alike (30_encoding.md R108). -/
theorem runDecoded_of_illegal {s : State} {p : Nat} {w : Word} (hidle : s.port[p]? = some .idle)
    (hillegal : (∀ r ∈ commandRows, w &&& r.mask ≠ r.bits) ∨
      ∃ i, decode (.command p w) = .instr i ∧ i.fieldsLegal s.cfg = false) :
    runDecoded (decode (.command p w)) s = .next (s.answer p .illegal) := by
  obtain hnoRow | ⟨i, hdecode, hfields⟩ := hillegal
  · obtain ⟨⟨r, hr, hacc, -⟩, -⟩ | ⟨-, d, hdecode⟩ := everyWordIsOneRowsCommandOrRejected p w
    · exact absurd hacc (hnoRow r hr)
    · rw [hdecode]; exact illegalWord_of_idle hidle
  · rw [hdecode]; exact exec_of_fields_illegal (decodeCommand_instr_port hdecode) hidle hfields

/-- Settles O8: the word is the next stimulus, and its answer on an IDLE port writes the trace only. -/
theorem illegalWordIsAnsweredIllegal : Obligations.IllegalWordIsAnsweredIllegal := by
  intro s held after p w hlegal hinbox hheld hidle hillegal
  have htake : s.takeNext = some (.command p w, held ++ after) :=
    takeFirst_eq_some_iff.mpr ⟨held, after, hinbox, rfl, beq_iff_eq.mpr hidle, hheld⟩
  have hrun := runDecoded_of_illegal (s := { s with inbox := held ++ after }) hidle hillegal
  exact ⟨_, (step_of_takeNext_some hlegal htake).trans hrun,
    State.answer_eq_withTrace (s := { s with inbox := held ++ after }) .illegal hidle,
    State.answer_answered _ p .illegal, keepsStorage_of_eq rfl rfl rfl⟩

/-! ### The halted block -/

theorem servedWhileHalted_iff {i : Instr} {p : Nat} (hp : i.port? = some p) :
    servedWhileHalted i = true ↔ ∃ reg, i = .rdstat p reg := by
  cases i with
  | rdstat q reg => cases hp; exact ⟨fun _ => ⟨reg, rfl⟩, fun _ => rfl⟩
  | _ => exact ⟨nofun, nofun⟩

section Halted

variable {s : State} (hhalted : s.halted = true)
include hhalted

/-- Every input event but RESET asks for the halt first (60_exceptions.md R287). -/
theorem exec_event_of_halted {i : Instr} (hp : i.port? = none) (hreset : i ≠ .reset) : exec i s = .next s := by
  cases i with
  | rxByte b => exact if_pos hhalted
  | scan s0 s1 => exact if_pos hhalted
  | tick => exact if_pos hhalted
  | reset => exact absurd rfl hreset
  | _ => cases hp

/-- The prologue answers every legal command but RDSTAT by itself. -/
theorem exec_of_halted {i : Instr} {p : Nat} (hp : i.port? = some p) (hidle : s.port[p]? = some .idle)
    (hfields : i.fieldsLegal s.cfg = true) (hserved : servedWhileHalted i = false) :
    exec i s = .next (s.answer p .halted) := by
  obtain ⟨body, hexec⟩ := exec_eq_prologue s hp
  simp [hexec, prologue, hidle, hfields, hhalted, hserved]

/-- Whatever a halted block does with a command, it only answers the command's port. -/
theorem exec_command_of_halted {i : Instr} {p : Nat} {t : State} (hp : i.port? = some p) (h : exec i s = .next t) :
    ∃ w, t = { s with trace := s.trace ++ [.resp p w] } := by
  have hidle : s.port[p]? = some .idle := by
    obtain ⟨body, hexec⟩ := exec_eq_prologue s hp
    exact port_idle_of_prologue (hexec.symm.trans h)
  cases hfields : i.fieldsLegal s.cfg with
  | false =>
    cases (exec_of_fields_illegal hp hidle hfields).symm.trans h
    exact ⟨_, State.answer_idle .illegal hidle⟩
  | true =>
    cases hserved : servedWhileHalted i with
    | false =>
      cases (exec_of_halted hhalted hp hidle hfields hserved).symm.trans h
      exact ⟨_, State.answer_idle .halted hidle⟩
    | true =>
      obtain ⟨reg, rfl⟩ := (servedWhileHalted_iff hp).mp hserved
      obtain ⟨v, hv⟩ := Option.isSome_iff_exists.mp ((statusReg_isSome s reg).trans hfields)
      cases (exec_rdstat_of_statusReg hidle hv).symm.trans h
      exact ⟨_, State.respond_idle .ok 0#8 0#4 v hidle⟩

end Halted

/-- Settles O20: the prologue answers every command but RDSTAT, which finds a register at every legal REG
(`statusReg_isSome`); the events are ignored, and R41 item 7 leaves no port waiting. -/
theorem haltedBlockServesOnlyStatusReads : Obligations.HaltedBlockServesOnlyStatusReads := by
  intro s hhalted
  refine ⟨fun b => exec_event_of_halted hhalted rfl nofun, fun s0 s1 => exec_event_of_halted hhalted rfl nofun,
    exec_event_of_halted hhalted rfl nofun, ⟨_, rfl, rfl⟩, fun hs => hs.haltedIdle hhalted,
    fun i p hp hidle => ⟨fun hfields => ?_, fun hfields hother => ?_, ?_⟩⟩
  · exact ⟨_, exec_of_fields_illegal hp hidle hfields, State.answer_eq_withTrace .illegal hidle,
      s.answer_answered p .illegal⟩
  · have hserved : servedWhileHalted i = false := Bool.eq_false_iff.mpr fun hserved => by
      obtain ⟨reg, hi⟩ := (servedWhileHalted_iff hp).mp hserved
      exact hother reg hi
    exact ⟨_, exec_of_halted hhalted hp hidle hfields hserved, State.answer_eq_withTrace .halted hidle,
      s.answer_answered p .halted⟩
  · rintro reg hfields rfl
    obtain ⟨v, hv⟩ := Option.isSome_iff_exists.mp ((statusReg_isSome s reg).trans hfields)
    exact ⟨_, v, exec_rdstat_of_statusReg hidle hv, State.respond_eq_withTrace .ok 0#8 0#4 v hidle, hv,
      s.respond_answered p .ok 0#8 0#4 v⟩

/-- Settles O23: a halted block ignores the events and only answers a command, an illegal word included. -/
theorem onlyResetLeavesTheHalt : Obligations.OnlyResetLeavesTheHalt := by
  intro s t hhalted hstep
  obtain ⟨-, ⟨-, rfl⟩ | ⟨st, rest, i, htake, hdecode, hexec⟩ | ⟨p, w, rest, _, -, -, hidle, rfl⟩⟩ := step_cases hstep
  · exact .inr ⟨[], by simp⟩
  · have hhalted' : State.halted { s with inbox := rest } = true := hhalted
    cases hp : i.port? with
    | some p =>
      obtain ⟨w, rfl⟩ := exec_command_of_halted hhalted' hp hexec
      exact .inr ⟨_, rfl⟩
    | none =>
      by_cases hreset : i = .reset
      · subst hreset
        obtain rfl := eq_encode_of_decode_event hdecode rfl
        exact .inl ⟨rest, htake⟩
      · cases (exec_event_of_halted hhalted' hp hreset).symm.trans hexec
        exact .inr ⟨[], by simp⟩
  · exact .inr ⟨_, State.answer_idle (s := { s with inbox := rest }) .illegal hidle⟩

end Sys2Proof.Machine

/-! PROOF. Diagnostic events and the halt (60_exceptions.md R284 to R286, R291): what each instruction emits, in any
state, and which instructions halt a running block. -/

namespace Sys2Proof.Machine

/-! ### What one instruction emits -/

/-- From `s` to `t` exactly the diagnostic events `ds` are emitted and the block is halted in `t` if it was in `s`. -/
def Emits (ds : List DiagCode) (s t : State) : Prop :=
  t.halted = s.halted ∧ diagsOf t.trace = diagsOf s.trace ++ ds

theorem Emits.refl (s : State) : Emits [] s s := ⟨rfl, (List.append_nil _).symm⟩

theorem Emits.trans {ds ds' : List DiagCode} {s t u : State} (hst : Emits ds s t) (htu : Emits ds' t u) :
    Emits (ds ++ ds') s u := by
  obtain ⟨hhalted, hdiags⟩ := hst
  obtain ⟨hhalted', hdiags'⟩ := htu
  exact ⟨hhalted'.trans hhalted, by rw [hdiags', hdiags, List.append_assoc]⟩

theorem Emits.diag (s : State) (d : DiagCode) : Emits [d] s (s.diag d) := ⟨rfl, diagsOf_append _ _⟩

/-- A response is no diagnostic event (60_exceptions.md R282). -/
theorem Emits.respond {ds : List DiagCode} {s t : State} (hst : Emits ds s t) (p : Nat) (rc : Rc) (h : Handle)
    (c : ChanId) (v : BitVec 16) : Emits ds s (t.respond p rc h c v) := by
  obtain ⟨hhalted, hdiags⟩ := hst
  exact ⟨hhalted, by simp [diagsOf_append, diagsOf, hdiags]⟩

theorem diagsOf_sweepAnswers (f : PortState → PortState × Option Rc) (ports : List PortState) (q : Nat) :
    diagsOf (sweepAnswers f q ports) = [] := by
  induction ports generalizing q with
  | nil => rfl
  | cons ps rest ih =>
    unfold sweepAnswers
    split <;> exact ih (q + 1)

theorem Emits.sweepPorts (s : State) (f : PortState → PortState × Option Rc) : Emits [] s (s.sweepPorts f) :=
  ⟨rfl, (diagsOf_append _ _).trans (congrArg _ (diagsOf_sweepAnswers f s.port 0))⟩

/-- Fatal entry emits FATAL once (60_exceptions.md R285). -/
theorem takeFatal_diagsOf (code : FatalCode) (p : Nat) (h : Handle) (s : State) :
    diagsOf (takeFatal code p h s).trace = diagsOf s.trace ++ [.fatal] := by
  simp [diagsOf_append, diagsOf, diagsOf_sweepAnswers]

/-- A command that breaks no rule emits nothing and halts nothing; the other one takes the whole of fatal entry. -/
theorem CommandStep.emits_or_fatal {i : Instr} {p : Nat} {s t : State} (hstep : CommandStep p s i t) :
    Emits [] s t ∨ ∃ code h, Ready i p s ∧ Violates s i p code h ∧ t = takeFatal code p h s := by
  cases hstep with
  | fatal code h ready violates => exact .inr ⟨code, h, ready, violates, rfl⟩
  | answered rc h c v => exact .inl (.respond (.refl s) p rc h c v)
  | acquired h alloc => exact .inl (.respond (.refl s) p .ok h _ _)
  | released h held => exact .inl (.respond (.refl s) p .ok _ _ _)
  | handed c h len q held fits waiter => exact .inl (.respond (.respond (.refl s) q .ok h c _) p .ok _ _ _)
  | queued c h len held nobody room => exact .inl (.respond (.refl s) p .ok _ _ _)
  | received c tmo m rest oldest => exact .inl (.respond (.refl s) p .ok m.h c _)
  | waits c tmo empty => exact .inl (.refl s)
  | wrote h off b held => exact .inl (.respond (.refl s) p .ok _ _ _)
  | took consumer nonempty => exact .inl (.respond (.refl s) p .ok _ _ _)

/-- At most one event of a received byte. -/
def EmitsAtMostOne (s t : State) : Prop := ∃ ds, ds.length ≤ 1 ∧ Emits ds s t

theorem EmitsAtMostOne.none {s t : State} (h : Emits [] s t) : EmitsAtMostOne s t := ⟨[], Nat.zero_le 1, h⟩

theorem EmitsAtMostOne.one {s t : State} {d : DiagCode} (h : Emits [d] s t) : EmitsAtMostOne s t := ⟨_, le_rfl, h⟩

theorem rxStart_emits (s : State) : EmitsAtMostOne s (rxStart s) := by
  unfold rxStart
  split
  · exact .one (.diag s .poolExhausted)
  · exact .none (.refl s)

theorem rxEnd_emits (h : Handle) (s : State) : EmitsAtMostOne s (rxEnd h s) := by
  obtain ⟨q, -, he⟩ | ⟨-, -, he⟩ | ⟨-, -, he⟩ := rxEnd_cases h s <;> rw [he]
  · exact .none (.respond (.refl s) q .ok h 0#4 _)
  · exact .none (.refl s)
  · exact .one (.diag s .channelFull)

theorem rxPayload_emits {h : Handle} {b : Byte} {s t : State} (hp : rxPayload h b s = .next t) : Emits [] s t := by
  unfold rxPayload at hp
  split at hp <;> cases hp
  next u hu =>
    obtain ⟨-, rfl, -⟩ := State.memWrite_spec hu
    exact .refl s

/-- In any state, of the invariants or not, a received byte emits at most one event and halts nothing. -/
theorem execRxByte_emits {b : Byte} {s t : State} (h : execRxByte b s = .next t) : EmitsAtMostOne s t := by
  unfold execRxByte at h
  split at h
  · cases h; exact .none (.refl s)
  split at h
  · split at h
    · cases h; exact rxStart_emits s
    · split at h <;> cases h
      · exact .one (.diag s .strayEnd)
      · exact .none (.refl s)
  · split at h
    · cases h
    next k _ =>
      split at h
      · cases h; exact rxEnd_emits k s
      · split at h
        · cases h; exact .one (.diag s .frameOverflow)
        · exact .none (rxPayload_emits h)

/-- One sample emits nothing or RING_FULL (42_debounce.md R222). -/
theorem DbOutcome.emits {i : DbInput} {s t : State} (h : DbOutcome i s t) :
    ∃ n ≤ 1, Emits (List.replicate n .ringFull) s t := by
  cases h with
  | moved d => exact ⟨0, Nat.zero_le 1, by simp [Emits]⟩
  | queued room => exact ⟨0, Nat.zero_le 1, by simp [Emits]⟩
  | refused full => exact ⟨1, le_rfl, by simp [Emits, diagsOf_append, diagsOf]⟩

theorem exec_scan_emits {s t : State} {s0 s1 : Bool} (h : exec (.scan s0 s1) s = .next t) :
    ∃ n ≤ 2, Emits (List.replicate n .ringFull) s t := by
  obtain ⟨-, rfl⟩ | ⟨-, rfl⟩ := exec_scan_cases h
  · exact ⟨0, Nat.zero_le 2, .refl _⟩
  · obtain ⟨n, hn, hfirst⟩ := (dbStep_outcome .in0 s0 s).emits
    obtain ⟨m, hm, hsecond⟩ := (dbStep_outcome .in1 s1 (dbStep .in0 s0 s)).emits
    exact ⟨n + m, Nat.add_le_add hn hm, List.replicate_append_replicate ▸ hfirst.trans hsecond⟩

theorem exec_tick_emits {s t : State} (h : exec .tick s = .next t) : Emits [] s t := by
  obtain ⟨-, rfl⟩ | ⟨-, rfl⟩ := exec_tick_cases h
  · exact .refl _
  · exact .sweepPorts s tickPort

/-- Settles O56: a command emits nothing or takes fatal entry (`CommandStep.emits_or_fatal`); each event has its own
bound. -/
theorem diagnosticsOfOneStep : Obligations.DiagnosticsOfOneStep := by
  intro i s t h
  cases i with
  | rxByte b =>
    obtain ⟨ds, hlen, -, hdiags⟩ := execRxByte_emits h
    exact ⟨ds, hdiags, fun _ _ => hlen, nofun, nofun, nofun⟩
  | scan s0 s1 =>
    obtain ⟨n, hn, -, hdiags⟩ := exec_scan_emits h
    exact ⟨_, hdiags, nofun, fun _ _ _ => ⟨n, hn, rfl⟩, nofun, nofun⟩
  | tick =>
    obtain ⟨-, hdiags⟩ := exec_tick_emits h
    exact ⟨[], hdiags, nofun, nofun, fun _ => rfl, nofun⟩
  | reset =>
    cases h
    exact ⟨[], (List.append_nil _).symm, nofun, nofun, fun _ => rfl, nofun⟩
  | _ =>
    obtain ⟨hhalted, hdiags⟩ | ⟨code, k, -, -, rfl⟩ := (exec_commandStep rfl h).emits_or_fatal
    · exact ⟨[], hdiags, nofun, nofun, nofun, fun _ _ => .inl ⟨hhalted.symm, rfl⟩⟩
    · exact ⟨[.fatal], takeFatal_diagsOf code _ k s, nofun, nofun, nofun, fun _ _ => .inr ⟨rfl, rfl⟩⟩

/-! ### Entering the halt -/

/-- A command that breaks a rule of R284's table takes fatal entry, by the rule of that command. -/
theorem Violates.fatalEntered {s : State} {i : Instr} {p : Nat} {code : FatalCode} {h : Handle}
    (hviolates : Violates s i p code h) (hready : Ready i p s) :
    ∃ t, exec i s = .next t ∧ FatalEntered s t code p h := by
  obtain ⟨rfl, hfree, rfl⟩ | ⟨rfl, hnfree, hnheld, rfl⟩ | ⟨hi, hnheld, rfl⟩ | ⟨rfl, hother, rfl, rfl⟩ := hviolates
  · obtain ⟨-, hdouble, -⟩ := releaseFreesTheHoldersBufferOrHalts s p h hready
    exact hdouble hfree
  · obtain ⟨-, -, hnotOwner⟩ := releaseFreesTheHoldersBufferOrHalts s p h hready
    exact hnotOwner hnfree hnheld
  · have hentered := takeFatal_entered .notOwner h hready.idle
    obtain ⟨c, len, rfl⟩ | ⟨off, rfl⟩ | ⟨off, data, rfl⟩ := hi
    · exact ⟨_, exec_post_of_not_held hready hnheld, hentered⟩
    · exact ⟨_, exec_bufRd_of_not_held hready hnheld, hentered⟩
    · exact ⟨_, exec_bufWr_of_not_held hready hnheld, hentered⟩
  · exact ⟨_, exec_rbGet_of_other hready hother, takeFatal_entered .secondConsumer 0#8 hready.idle⟩

/-- Input events keep the halt flag, but for RESET, which clears it. -/
theorem exec_event_halted {i : Instr} {s t : State} (hp : i.port? = none) (h : exec i s = .next t) :
    t.halted = s.halted ∨ t.halted = false := by
  cases i with
  | rxByte b =>
    obtain ⟨_, -, hhalted, -⟩ := execRxByte_emits h
    exact .inl hhalted
  | scan s0 s1 =>
    obtain ⟨_, -, hhalted, -⟩ := exec_scan_emits h
    exact .inl hhalted
  | tick =>
    obtain ⟨hhalted, -⟩ := exec_tick_emits h
    exact .inl hhalted
  | reset => cases h; exact .inr rfl
  | _ => cases hp

/-- Settles O21: the table's conditions are those of the commands' own rules (`Violates.fatalEntered`), and the one
outcome of an instruction that sets the halt flag is a command's fatal entry. -/
theorem violationsAndNothingElseEnterTheHalt : Obligations.ViolationsAndNothingElseEnterTheHalt := by
  refine fun s i => ⟨fun p code h hready hviolates => hviolates.fatalEntered hready, fun t hrun hexec hhalt => ?_⟩
  cases hp : i.port? with
  | some p =>
    obtain ⟨hkept, -⟩ | ⟨code, h, hready, hviolates, rfl⟩ := (exec_commandStep hp hexec).emits_or_fatal
    · cases (hhalt.symm.trans hkept).trans hrun
    · exact ⟨p, code, h, rfl, hready, hviolates, takeFatal_entered code h hready.idle⟩
  | none =>
    obtain hkept | hcleared := exec_event_halted hp hexec
    · cases (hhalt.symm.trans hkept).trans hrun
    · cases hhalt.symm.trans hcleared

/-- The commands of R284's table. -/
theorem Violates.command {s : State} {i : Instr} {p : Nat} {code : FatalCode} {h : Handle}
    (hviolates : Violates s i p code h) :
    ((∃ x, i = .release p x) ∨ (∃ c x len, i = .post p c x len) ∨ (∃ x off, i = .bufRd p x off) ∨
      (∃ x off data, i = .bufWr p x off data) ∨ i = .rbGet p) ∧ code ≠ .none := by
  obtain ⟨hi, -, rfl⟩ | ⟨hi, -, -, rfl⟩ | ⟨hi, -, rfl⟩ | ⟨hi, -, rfl, -⟩ := hviolates <;> refine ⟨?_, nofun⟩
  · exact .inl ⟨h, hi⟩
  · exact .inl ⟨h, hi⟩
  · obtain ⟨c, len, hi⟩ | ⟨off, hi⟩ | ⟨off, data, hi⟩ := hi
    · exact .inr (.inl ⟨c, h, len, hi⟩)
    · exact .inr (.inr (.inl ⟨h, off, hi⟩))
    · exact .inr (.inr (.inr (.inl ⟨h, off, data, hi⟩)))
  · exact .inr (.inr (.inr (.inr hi)))

/-- Settles O22: of the three things a step can be, only an instruction changes the halt flag, and by O21 it is then a
command of R284's table. -/
theorem haltIsPrecise : Obligations.HaltIsPrecise := by
  intro s t hrun hstep hhalt
  obtain ⟨-, ⟨-, rfl⟩ | ⟨st, rest, i, htake, hdecode, hexec⟩ | ⟨_, _, _, _, -, -, -, rfl⟩⟩ := step_cases hstep
  · cases hhalt.symm.trans hrun
  · obtain ⟨-, honly⟩ := violationsAndNothingElseEnterTheHalt { s with inbox := rest } i
    obtain ⟨p, code, h, hp, -, hviolates, hentered⟩ := honly t hrun hexec hhalt
    obtain ⟨hcommand, hcode⟩ := hviolates.command
    have hagent := agent_of_decode_command hdecode hp
    cases st with
    | command q w =>
      obtain rfl : q = p := Agent.host.inj hagent
      exact ⟨q, w, rest, i, code, h, htake, hdecode, hcommand, hcode, hentered⟩
    | _ => cases hagent
  · cases hhalt.symm.trans hrun

end Sys2Proof.Machine

/-! PROOF. Level outputs and numbers of codes (60_exceptions.md R283, R284, R293). -/

namespace Sys2Proof.Machine

/-- Settles O44: a count is positive exactly when it is not 0. -/
theorem levelOutputsFollowTheState : Obligations.LevelOutputsFollowTheState := by
  refine fun s => ⟨fun c => ?_, ?_, Iff.rfl⟩
  · rw [State.msgAvail, decide_eq_true_iff, gt_iff_lt, List.length_pos_iff]
  · rw [State.rbNonempty, decide_eq_true_iff, gt_iff_lt, Nat.pos_iff_ne_zero]
    exact not_congr (BitVec.toNat_inj (y := 0#16))

/-- Settles O57: the tables of the codes, read one code after another. -/
theorem codesHaveTheirNumbers : Obligations.CodesHaveTheirNumbers := by
  refine ⟨by decide, fun d => ?_, FatalCode.bits_toNat, DbState.bits_toNat⟩
  cases d <;> decide

end Sys2Proof.Machine

/-! PROOF. Reset and hazards (70_reset_and_hazards.md R320 to R322, R330): the state RESET and power-on give, and the
words a waiting port holds. -/

namespace Sys2Proof.Machine

/-! ### Waiting ports -/

/-- The block has no step for what the host of a waiting port presents. -/
theorem State.serves_host_of_wait {s : State} {p : Nat} {c : ChanId} {r : Remaining}
    (hwait : s.port[p]? = some (.wait c r)) : s.serves (.host p) = false := by
  simp [State.serves, State.portIdle, hwait]

/-- Settles O11: the agent of the stimulus a step takes is one the block serves (`State.canTake_eq_serves`), so it is not
the waiting port's host, and the words of that port are all among the stimuli left. -/
theorem waitingPortsWordsAreHeld : Obligations.WaitingPortsWordsAreHeld := by
  intro s t p c r hwait hstep
  obtain hkept | ⟨st, htake⟩ := step_inbox hstep
  · rw [hkept]
  · obtain ⟨held, after, hbefore, hafter, htakable, -⟩ := takeFirst_eq_some_iff.mp htake
    have hother : st.agent ≠ .host p := by
      intro hagent
      rw [State.canTake_eq_serves, hagent, State.serves_host_of_wait hwait] at htakable
      cases htakable
    simp [hbefore, hafter, List.filter_append, hother]

/-! ### The reset state -/

theorem State.resetWith_ownerOf {g : Config} {h : Handle} (hh : h.toNat < g.N) :
    (State.resetWith g).ownerOf h = some .free :=
  List.getElem?_replicate_of_lt hh

theorem State.resetWith_chan (g : Config) (c : ChanId) : (State.resetWith g).chan c = [] :=
  resetBlock_chan (State.resetWith g) c

theorem State.resetWith_port {g : Config} {p : Nat} (hp : p < g.NPORT) : (State.resetWith g).port[p]? = some .idle :=
  List.getElem?_replicate_of_lt hp

/-- Settles O14: the registers are the reset state's own fields, and every entry of the three tables is the one value
they are filled with. -/
theorem powerOnState : Obligations.PowerOnState :=
  ⟨rfl, fun g => ⟨rfl, rfl, rfl, rfl, rfl, rfl, rfl, fun _ => State.resetWith_ownerOf, State.resetWith_chan g,
    fun _ => State.resetWith_port, rfl, rfl, rfl, rfl, rfl⟩⟩

/-- Settles O15: the state is `resetBlock s`, which is the reset state of the same build in every field but the five
named. -/
theorem resetGivesTheResetState : Obligations.ResetGivesTheResetState := fun s =>
  ⟨resetBlock s, rfl, rfl, resetBlock_trace s⟩

end Sys2Proof.Machine
